-- ==== Sys2Proof/Word.lean ====
section
/-! DEFINITION. The word types of the R5 core and the few names that every later file shares. Widths: 00_scope.md R7. -/

namespace Sys2Proof

/-- One addressable unit of memory (R36). -/
abbrev Byte := BitVec 8

/-- A general register, an address or an immediate: 64 bits, read signed or unsigned as the rule at hand says (R7, R9). -/
abbrev Word := BitVec 64

/-- A 64-bit byte address (R36). -/
abbrev Addr := BitVec 64

/-- The instruction word handed to the block in one step (R30, R60). -/
abbrev InstrWord := BitVec 32

/-- The number of a general register, 0 to 31 (R20). -/
abbrev RegIdx := Fin 32

/-- The four access widths of the bus (R40). -/
inductive Width where
  | byte | half | word | double
deriving DecidableEq, Repr

/-- The two extension modes of a load (R181). -/
inductive LoadExt where
  | sign | zero
deriving DecidableEq, Repr

end Sys2Proof
end

