-- ==== Sys2Proof/Machine/Flags.lean ====
section
/-! DEFINITION. The block has no flags and no condition codes (10_state.md R31): a comparison's result is written to a register as
0 or 1, or is consumed by a branch in the same step. This file holds those comparisons. -/

namespace Sys2Proof.Machine

/-- `a <s b` of R10. -/
def signedLess (a b : Word) : Bool := a.slt b

/-- `a <u b` of R10. -/
def unsignedLess (a b : Word) : Bool := a.ult b

/-- A comparison as the register value 0 or 1 (R31). -/
def boolWord (c : Bool) : Word := if c then 1 else 0

/-! The conditions of the six branches (R173's table). -/

def condEq (a b : Word) : Bool := a == b
def condNe (a b : Word) : Bool := a != b
def condLt (a b : Word) : Bool := signedLess a b
def condGe (a b : Word) : Bool := !signedLess a b
def condLtu (a b : Word) : Bool := unsignedLess a b
def condGeu (a b : Word) : Bool := !unsignedLess a b

end Sys2Proof.Machine
end

