-- ==== Sys2Proof/Syntax.lean ====
section
/-! DEFINITION. The 50 instructions of the R5 core as syntax: one constructor per row of spec/opcode_table.json, in the table's
order (30_encoding.md R65, R73 to R81, R85). Operands stand as the encoding holds them: register numbers, the immediate's own
bits (12 for formats I and S, the 20 bits instr[31:12] for format U), and for branches and JAL the byte offset of 13 or 21 bits
whose bit 0 the encoding does not hold (WellFormed.lean asks that it be 0). -/

namespace Sys2Proof

inductive Instr where
  /-- `LUI rd, imm20` (R200). -/
  | lui (rd : RegIdx) (imm20 : BitVec 20)
  /-- `AUIPC rd, imm20` (R201). -/
  | auipc (rd : RegIdx) (imm20 : BitVec 20)
  /-- `JAL rd, off` (R161). -/
  | jal (rd : RegIdx) (off : BitVec 21)
  /-- `JALR rd, imm(rs1)` (R162). -/
  | jalr (rd rs1 : RegIdx) (imm : BitVec 12)
  /-- `BEQ rs1, rs2, off` (R163). -/
  | beq (rs1 rs2 : RegIdx) (off : BitVec 13)
  /-- `BNE rs1, rs2, off` (R164). -/
  | bne (rs1 rs2 : RegIdx) (off : BitVec 13)
  /-- `BLT rs1, rs2, off` (R165). -/
  | blt (rs1 rs2 : RegIdx) (off : BitVec 13)
  /-- `BGE rs1, rs2, off` (R166). -/
  | bge (rs1 rs2 : RegIdx) (off : BitVec 13)
  /-- `BLTU rs1, rs2, off` (R167). -/
  | bltu (rs1 rs2 : RegIdx) (off : BitVec 13)
  /-- `BGEU rs1, rs2, off` (R168). -/
  | bgeu (rs1 rs2 : RegIdx) (off : BitVec 13)
  /-- `LB rd, imm(rs1)` (R183). -/
  | lb (rd rs1 : RegIdx) (imm : BitVec 12)
  /-- `LH rd, imm(rs1)` (R184). -/
  | lh (rd rs1 : RegIdx) (imm : BitVec 12)
  /-- `LW rd, imm(rs1)` (R185). -/
  | lw (rd rs1 : RegIdx) (imm : BitVec 12)
  /-- `LD rd, imm(rs1)` (R186). -/
  | ld (rd rs1 : RegIdx) (imm : BitVec 12)
  /-- `LBU rd, imm(rs1)` (R187). -/
  | lbu (rd rs1 : RegIdx) (imm : BitVec 12)
  /-- `LHU rd, imm(rs1)` (R188). -/
  | lhu (rd rs1 : RegIdx) (imm : BitVec 12)
  /-- `LWU rd, imm(rs1)` (R189). -/
  | lwu (rd rs1 : RegIdx) (imm : BitVec 12)
  /-- `SB rs2, imm(rs1)` (R190). -/
  | sb (rs1 rs2 : RegIdx) (imm : BitVec 12)
  /-- `SH rs2, imm(rs1)` (R191). -/
  | sh (rs1 rs2 : RegIdx) (imm : BitVec 12)
  /-- `SW rs2, imm(rs1)` (R192). -/
  | sw (rs1 rs2 : RegIdx) (imm : BitVec 12)
  /-- `SD rs2, imm(rs1)` (R193). -/
  | sd (rs1 rs2 : RegIdx) (imm : BitVec 12)
  /-- `ADDI rd, rs1, imm` (R100). -/
  | addi (rd rs1 : RegIdx) (imm : BitVec 12)
  /-- `SLTI rd, rs1, imm` (R101). -/
  | slti (rd rs1 : RegIdx) (imm : BitVec 12)
  /-- `SLTIU rd, rs1, imm` (R102). -/
  | sltiu (rd rs1 : RegIdx) (imm : BitVec 12)
  /-- `XORI rd, rs1, imm` (R103). -/
  | xori (rd rs1 : RegIdx) (imm : BitVec 12)
  /-- `ORI rd, rs1, imm` (R104). -/
  | ori (rd rs1 : RegIdx) (imm : BitVec 12)
  /-- `ANDI rd, rs1, imm` (R105). -/
  | andi (rd rs1 : RegIdx) (imm : BitVec 12)
  /-- `SLLI rd, rs1, shamt` (R106). -/
  | slli (rd rs1 : RegIdx) (shamt : BitVec 6)
  /-- `SRLI rd, rs1, shamt` (R107). -/
  | srli (rd rs1 : RegIdx) (shamt : BitVec 6)
  /-- `SRAI rd, rs1, shamt` (R108). -/
  | srai (rd rs1 : RegIdx) (shamt : BitVec 6)
  /-- `ADD rd, rs1, rs2` (R120). -/
  | add (rd rs1 rs2 : RegIdx)
  /-- `SUB rd, rs1, rs2` (R121). -/
  | sub (rd rs1 rs2 : RegIdx)
  /-- `SLL rd, rs1, rs2` (R122). -/
  | sll (rd rs1 rs2 : RegIdx)
  /-- `SLT rd, rs1, rs2` (R123). -/
  | slt (rd rs1 rs2 : RegIdx)
  /-- `SLTU rd, rs1, rs2` (R124). -/
  | sltu (rd rs1 rs2 : RegIdx)
  /-- `XOR rd, rs1, rs2` (R125). -/
  | xor (rd rs1 rs2 : RegIdx)
  /-- `SRL rd, rs1, rs2` (R126). -/
  | srl (rd rs1 rs2 : RegIdx)
  /-- `SRA rd, rs1, rs2` (R127). -/
  | sra (rd rs1 rs2 : RegIdx)
  /-- `OR rd, rs1, rs2` (R128). -/
  | or (rd rs1 rs2 : RegIdx)
  /-- `AND rd, rs1, rs2` (R129). -/
  | and (rd rs1 rs2 : RegIdx)
  /-- `ADDIW rd, rs1, imm` (R140). -/
  | addiw (rd rs1 : RegIdx) (imm : BitVec 12)
  /-- `SLLIW rd, rs1, shamt` (R141). -/
  | slliw (rd rs1 : RegIdx) (shamt : BitVec 5)
  /-- `SRLIW rd, rs1, shamt` (R142). -/
  | srliw (rd rs1 : RegIdx) (shamt : BitVec 5)
  /-- `SRAIW rd, rs1, shamt` (R143). -/
  | sraiw (rd rs1 : RegIdx) (shamt : BitVec 5)
  /-- `ADDW rd, rs1, rs2` (R145). -/
  | addw (rd rs1 rs2 : RegIdx)
  /-- `SUBW rd, rs1, rs2` (R146). -/
  | subw (rd rs1 rs2 : RegIdx)
  /-- `SLLW rd, rs1, rs2` (R147). -/
  | sllw (rd rs1 rs2 : RegIdx)
  /-- `SRLW rd, rs1, rs2` (R148). -/
  | srlw (rd rs1 rs2 : RegIdx)
  /-- `SRAW rd, rs1, rs2` (R149). -/
  | sraw (rd rs1 rs2 : RegIdx)
  /-- `FENCE pred, succ` (R210). The hardware ignores every field (R211); they stand here so that each word has its own term
  (DESIGN CHOICE, safe, log entry 9). -/
  | fence (fm pred succ : BitVec 4) (rs1 rd : RegIdx)
deriving DecidableEq, Repr

/-- The mnemonic of an instruction, as the opcode table spells it (R85). -/
def Instr.mnemonic : Instr → String
  | .lui _ _ => "LUI"
  | .auipc _ _ => "AUIPC"
  | .jal _ _ => "JAL"
  | .jalr _ _ _ => "JALR"
  | .beq _ _ _ => "BEQ"
  | .bne _ _ _ => "BNE"
  | .blt _ _ _ => "BLT"
  | .bge _ _ _ => "BGE"
  | .bltu _ _ _ => "BLTU"
  | .bgeu _ _ _ => "BGEU"
  | .lb _ _ _ => "LB"
  | .lh _ _ _ => "LH"
  | .lw _ _ _ => "LW"
  | .ld _ _ _ => "LD"
  | .lbu _ _ _ => "LBU"
  | .lhu _ _ _ => "LHU"
  | .lwu _ _ _ => "LWU"
  | .sb _ _ _ => "SB"
  | .sh _ _ _ => "SH"
  | .sw _ _ _ => "SW"
  | .sd _ _ _ => "SD"
  | .addi _ _ _ => "ADDI"
  | .slti _ _ _ => "SLTI"
  | .sltiu _ _ _ => "SLTIU"
  | .xori _ _ _ => "XORI"
  | .ori _ _ _ => "ORI"
  | .andi _ _ _ => "ANDI"
  | .slli _ _ _ => "SLLI"
  | .srli _ _ _ => "SRLI"
  | .srai _ _ _ => "SRAI"
  | .add _ _ _ => "ADD"
  | .sub _ _ _ => "SUB"
  | .sll _ _ _ => "SLL"
  | .slt _ _ _ => "SLT"
  | .sltu _ _ _ => "SLTU"
  | .xor _ _ _ => "XOR"
  | .srl _ _ _ => "SRL"
  | .sra _ _ _ => "SRA"
  | .or _ _ _ => "OR"
  | .and _ _ _ => "AND"
  | .addiw _ _ _ => "ADDIW"
  | .slliw _ _ _ => "SLLIW"
  | .srliw _ _ _ => "SRLIW"
  | .sraiw _ _ _ => "SRAIW"
  | .addw _ _ _ => "ADDW"
  | .subw _ _ _ => "SUBW"
  | .sllw _ _ _ => "SLLW"
  | .srlw _ _ _ => "SRLW"
  | .sraw _ _ _ => "SRAW"
  | .fence _ _ _ _ _ => "FENCE"

end Sys2Proof
end

