-- ==== Sys2Proof/Decode.lean ====
section
/-! DEFINITION. The instruction decoder and the immediate decoder (30_encoding.md), and after them the encoder, the opcode table
and the host's entry `decodeTableWord`. The field positions are rules R62, R65 to R71; the numeric selector values are rules R73
to R81 (decisions D4 to D9 and D25 of the spec, log entry 10). -/

namespace Sys2Proof

/-- The one sign-extension routine of the block: `sext_N` of R10 and R12, the field's width N in its type. -/
def sext {n : Nat} (v : BitVec n) : Word := v.signExtend 64

/-! The fixed fields (R62). -/

def opcodeOf (w : InstrWord) : BitVec 7 := w.extractLsb' 0 7
def rdOf (w : InstrWord) : RegIdx := (w.extractLsb' 7 5).toFin
def funct3Of (w : InstrWord) : BitVec 3 := w.extractLsb' 12 3
def rs1Of (w : InstrWord) : RegIdx := (w.extractLsb' 15 5).toFin
def rs2Of (w : InstrWord) : RegIdx := (w.extractLsb' 20 5).toFin
def funct7Of (w : InstrWord) : BitVec 7 := w.extractLsb' 25 7

/-! The immediate shifts' fields (R71): amount and shift type. `shtype7` is funct7. -/

def shamt6Of (w : InstrWord) : BitVec 6 := w.extractLsb' 20 6
def shamt5Of (w : InstrWord) : BitVec 5 := w.extractLsb' 20 5
def shtype6Of (w : InstrWord) : BitVec 6 := w.extractLsb' 26 6

/-! The bit-gather part of the five immediates (R66 to R70), before sign extension. Bit 1 of the J offset is `instr[21]` and of the
B offset `instr[8]`, as R70 and R68 say and R171 does not (DEDUCED, log entry 18). -/

def gatherI (w : InstrWord) : BitVec 12 := w.extractLsb' 20 12
def gatherS (w : InstrWord) : BitVec 12 := w.extractLsb' 25 7 ++ w.extractLsb' 7 5
def gatherB (w : InstrWord) : BitVec 13 :=
  w.extractLsb' 31 1 ++ w.extractLsb' 7 1 ++ w.extractLsb' 25 6 ++ w.extractLsb' 8 4 ++ 0#1
def gatherU (w : InstrWord) : BitVec 20 := w.extractLsb' 12 20
def gatherJ (w : InstrWord) : BitVec 21 :=
  w.extractLsb' 31 1 ++ w.extractLsb' 12 8 ++ w.extractLsb' 20 1 ++ w.extractLsb' 21 10 ++ 0#1

/-- The 64-bit value of the 20 bits of format U: placed at bit 12, then bit 31 copied into bits 63 to 32 (R69, C3). -/
def upperImmediate (imm20 : BitVec 20) : Word := sext (imm20 ++ 0#12)

/-! The five immediates as the 64-bit values the spec names imm_I to imm_J; each is defined on every word (R66 to R70). -/

def immI (w : InstrWord) : Word := sext (gatherI w)
def immS (w : InstrWord) : Word := sext (gatherS w)
def immB (w : InstrWord) : Word := sext (gatherB w)
def immU (w : InstrWord) : Word := upperImmediate (gatherU w)
def immJ (w : InstrWord) : Word := sext (gatherJ w)

/-- Why bytes are no instruction, one name per cause of R220's table; `systemOpcode` is R213's part of its first row and
`truncated` says that fewer than four bytes were given. -/
inductive DecodeError where
  | truncated
  | unmatchedOpcode
  | systemOpcode
  | opImmShiftType
  | opFunct
  | opImm32Funct
  | op32Funct
  | branchFunct3
  | jalrFunct3
  | loadFunct3
  | storeFunct3
  | miscMemFunct3
deriving DecidableEq, Repr

/-! The decision procedure of R83, one function per major opcode that needs a second selector. -/

def decodeBranch (w : InstrWord) : Except DecodeError Instr :=
  match funct3Of w with
  | 0b000#3 => .ok (.beq (rs1Of w) (rs2Of w) (gatherB w))
  | 0b001#3 => .ok (.bne (rs1Of w) (rs2Of w) (gatherB w))
  | 0b100#3 => .ok (.blt (rs1Of w) (rs2Of w) (gatherB w))
  | 0b101#3 => .ok (.bge (rs1Of w) (rs2Of w) (gatherB w))
  | 0b110#3 => .ok (.bltu (rs1Of w) (rs2Of w) (gatherB w))
  | 0b111#3 => .ok (.bgeu (rs1Of w) (rs2Of w) (gatherB w))
  | _ => .error .branchFunct3

def decodeLoad (w : InstrWord) : Except DecodeError Instr :=
  match funct3Of w with
  | 0b000#3 => .ok (.lb (rdOf w) (rs1Of w) (gatherI w))
  | 0b001#3 => .ok (.lh (rdOf w) (rs1Of w) (gatherI w))
  | 0b010#3 => .ok (.lw (rdOf w) (rs1Of w) (gatherI w))
  | 0b011#3 => .ok (.ld (rdOf w) (rs1Of w) (gatherI w))
  | 0b100#3 => .ok (.lbu (rdOf w) (rs1Of w) (gatherI w))
  | 0b101#3 => .ok (.lhu (rdOf w) (rs1Of w) (gatherI w))
  | 0b110#3 => .ok (.lwu (rdOf w) (rs1Of w) (gatherI w))
  | _ => .error .loadFunct3

def decodeStore (w : InstrWord) : Except DecodeError Instr :=
  match funct3Of w with
  | 0b000#3 => .ok (.sb (rs1Of w) (rs2Of w) (gatherS w))
  | 0b001#3 => .ok (.sh (rs1Of w) (rs2Of w) (gatherS w))
  | 0b010#3 => .ok (.sw (rs1Of w) (rs2Of w) (gatherS w))
  | 0b011#3 => .ok (.sd (rs1Of w) (rs2Of w) (gatherS w))
  | _ => .error .storeFunct3

def decodeOpImm (w : InstrWord) : Except DecodeError Instr :=
  match funct3Of w with
  | 0b000#3 => .ok (.addi (rdOf w) (rs1Of w) (gatherI w))
  | 0b010#3 => .ok (.slti (rdOf w) (rs1Of w) (gatherI w))
  | 0b011#3 => .ok (.sltiu (rdOf w) (rs1Of w) (gatherI w))
  | 0b100#3 => .ok (.xori (rdOf w) (rs1Of w) (gatherI w))
  | 0b110#3 => .ok (.ori (rdOf w) (rs1Of w) (gatherI w))
  | 0b111#3 => .ok (.andi (rdOf w) (rs1Of w) (gatherI w))
  | 0b001#3 =>
    if shtype6Of w = 0b000000#6 then .ok (.slli (rdOf w) (rs1Of w) (shamt6Of w)) else .error .opImmShiftType
  | 0b101#3 =>
    if shtype6Of w = 0b000000#6 then .ok (.srli (rdOf w) (rs1Of w) (shamt6Of w))
    else if shtype6Of w = 0b010000#6 then .ok (.srai (rdOf w) (rs1Of w) (shamt6Of w))
    else .error .opImmShiftType
  | _ => .error .opImmShiftType

def decodeOp (w : InstrWord) : Except DecodeError Instr :=
  match funct3Of w, funct7Of w with
  | 0b000#3, 0b0000000#7 => .ok (.add (rdOf w) (rs1Of w) (rs2Of w))
  | 0b000#3, 0b0100000#7 => .ok (.sub (rdOf w) (rs1Of w) (rs2Of w))
  | 0b001#3, 0b0000000#7 => .ok (.sll (rdOf w) (rs1Of w) (rs2Of w))
  | 0b010#3, 0b0000000#7 => .ok (.slt (rdOf w) (rs1Of w) (rs2Of w))
  | 0b011#3, 0b0000000#7 => .ok (.sltu (rdOf w) (rs1Of w) (rs2Of w))
  | 0b100#3, 0b0000000#7 => .ok (.xor (rdOf w) (rs1Of w) (rs2Of w))
  | 0b101#3, 0b0000000#7 => .ok (.srl (rdOf w) (rs1Of w) (rs2Of w))
  | 0b101#3, 0b0100000#7 => .ok (.sra (rdOf w) (rs1Of w) (rs2Of w))
  | 0b110#3, 0b0000000#7 => .ok (.or (rdOf w) (rs1Of w) (rs2Of w))
  | 0b111#3, 0b0000000#7 => .ok (.and (rdOf w) (rs1Of w) (rs2Of w))
  | _, _ => .error .opFunct

def decodeOpImm32 (w : InstrWord) : Except DecodeError Instr :=
  match funct3Of w with
  | 0b000#3 => .ok (.addiw (rdOf w) (rs1Of w) (gatherI w))
  | 0b001#3 =>
    if funct7Of w = 0b0000000#7 then .ok (.slliw (rdOf w) (rs1Of w) (shamt5Of w)) else .error .opImm32Funct
  | 0b101#3 =>
    if funct7Of w = 0b0000000#7 then .ok (.srliw (rdOf w) (rs1Of w) (shamt5Of w))
    else if funct7Of w = 0b0100000#7 then .ok (.sraiw (rdOf w) (rs1Of w) (shamt5Of w))
    else .error .opImm32Funct
  | _ => .error .opImm32Funct

def decodeOp32 (w : InstrWord) : Except DecodeError Instr :=
  match funct3Of w, funct7Of w with
  | 0b000#3, 0b0000000#7 => .ok (.addw (rdOf w) (rs1Of w) (rs2Of w))
  | 0b000#3, 0b0100000#7 => .ok (.subw (rdOf w) (rs1Of w) (rs2Of w))
  | 0b001#3, 0b0000000#7 => .ok (.sllw (rdOf w) (rs1Of w) (rs2Of w))
  | 0b101#3, 0b0000000#7 => .ok (.srlw (rdOf w) (rs1Of w) (rs2Of w))
  | 0b101#3, 0b0100000#7 => .ok (.sraw (rdOf w) (rs1Of w) (rs2Of w))
  | _, _ => .error .op32Funct

def decodeJalr (w : InstrWord) : Except DecodeError Instr :=
  if funct3Of w = 0b000#3 then .ok (.jalr (rdOf w) (rs1Of w) (gatherI w)) else .error .jalrFunct3

/-- FENCE's other fields are taken as they stand (R211): fm, pred, succ, rs1, rd. -/
def decodeMiscMem (w : InstrWord) : Except DecodeError Instr :=
  if funct3Of w = 0b000#3 then
    .ok (.fence (w.extractLsb' 28 4) (w.extractLsb' 24 4) (w.extractLsb' 20 4) (rs1Of w) (rdOf w))
  else .error .miscMemFunct3

/-- The decoder: total on the 2^32 words, reading nothing but the word (R83). -/
def decode (w : InstrWord) : Except DecodeError Instr :=
  match opcodeOf w with
  | 0b0110111#7 => .ok (.lui (rdOf w) (gatherU w))
  | 0b0010111#7 => .ok (.auipc (rdOf w) (gatherU w))
  | 0b1101111#7 => .ok (.jal (rdOf w) (gatherJ w))
  | 0b1100111#7 => decodeJalr w
  | 0b1100011#7 => decodeBranch w
  | 0b0000011#7 => decodeLoad w
  | 0b0100011#7 => decodeStore w
  | 0b0010011#7 => decodeOpImm w
  | 0b0110011#7 => decodeOp w
  | 0b0011011#7 => decodeOpImm32 w
  | 0b0111011#7 => decodeOp32 w
  | 0b0001111#7 => decodeMiscMem w
  | 0b1110011#7 => .error .systemOpcode
  | _ => .error .unmatchedOpcode

/-- The four bytes of a word in ascending addresses: the byte at the lowest address is instr[7:0] (R252). -/
def wordBytes (w : InstrWord) : List Byte :=
  [w.extractLsb' 0 8, w.extractLsb' 8 8, w.extractLsb' 16 8, w.extractLsb' 24 8]

/-- Decoding a list of bytes in ascending addresses: the instruction and the bytes after it (R60: four bytes each). -/
def decodeBytes : List Byte → Except DecodeError (Instr × List Byte)
  | b0 :: b1 :: b2 :: b3 :: rest =>
    match decode (b3 ++ b2 ++ b1 ++ b0) with
    | .ok i => .ok (i, rest)
    | .error e => .error e
  | _ => .error .truncated

/-! The encoder, from the formats of R65 and the inverse gathers of R72. -/

/-- A register number as its five bits. -/
def regBits (r : RegIdx) : BitVec 5 := BitVec.ofFin r

def encR (funct7 : BitVec 7) (rs2 rs1 : RegIdx) (funct3 : BitVec 3) (rd : RegIdx) (opcode : BitVec 7) : InstrWord :=
  funct7 ++ regBits rs2 ++ regBits rs1 ++ funct3 ++ regBits rd ++ opcode

def encI (imm : BitVec 12) (rs1 : RegIdx) (funct3 : BitVec 3) (rd : RegIdx) (opcode : BitVec 7) : InstrWord :=
  imm ++ regBits rs1 ++ funct3 ++ regBits rd ++ opcode

def encS (imm : BitVec 12) (rs2 rs1 : RegIdx) (funct3 : BitVec 3) (opcode : BitVec 7) : InstrWord :=
  imm.extractLsb' 5 7 ++ regBits rs2 ++ regBits rs1 ++ funct3 ++ imm.extractLsb' 0 5 ++ opcode

def encB (off : BitVec 13) (rs2 rs1 : RegIdx) (funct3 : BitVec 3) (opcode : BitVec 7) : InstrWord :=
  off.extractLsb' 12 1 ++ off.extractLsb' 5 6 ++ regBits rs2 ++ regBits rs1 ++ funct3 ++
    off.extractLsb' 1 4 ++ off.extractLsb' 11 1 ++ opcode

def encU (imm20 : BitVec 20) (rd : RegIdx) (opcode : BitVec 7) : InstrWord :=
  imm20 ++ regBits rd ++ opcode

def encJ (off : BitVec 21) (rd : RegIdx) (opcode : BitVec 7) : InstrWord :=
  off.extractLsb' 20 1 ++ off.extractLsb' 1 10 ++ off.extractLsb' 11 1 ++ off.extractLsb' 12 8 ++ regBits rd ++ opcode

/-- The word of an instruction (R65, R72 to R81). -/
def encode : Instr → InstrWord
  | .lui rd imm20 => encU imm20 rd 0b0110111#7
  | .auipc rd imm20 => encU imm20 rd 0b0010111#7
  | .jal rd off => encJ off rd 0b1101111#7
  | .jalr rd rs1 imm => encI imm rs1 0b000#3 rd 0b1100111#7
  | .beq rs1 rs2 off => encB off rs2 rs1 0b000#3 0b1100011#7
  | .bne rs1 rs2 off => encB off rs2 rs1 0b001#3 0b1100011#7
  | .blt rs1 rs2 off => encB off rs2 rs1 0b100#3 0b1100011#7
  | .bge rs1 rs2 off => encB off rs2 rs1 0b101#3 0b1100011#7
  | .bltu rs1 rs2 off => encB off rs2 rs1 0b110#3 0b1100011#7
  | .bgeu rs1 rs2 off => encB off rs2 rs1 0b111#3 0b1100011#7
  | .lb rd rs1 imm => encI imm rs1 0b000#3 rd 0b0000011#7
  | .lh rd rs1 imm => encI imm rs1 0b001#3 rd 0b0000011#7
  | .lw rd rs1 imm => encI imm rs1 0b010#3 rd 0b0000011#7
  | .ld rd rs1 imm => encI imm rs1 0b011#3 rd 0b0000011#7
  | .lbu rd rs1 imm => encI imm rs1 0b100#3 rd 0b0000011#7
  | .lhu rd rs1 imm => encI imm rs1 0b101#3 rd 0b0000011#7
  | .lwu rd rs1 imm => encI imm rs1 0b110#3 rd 0b0000011#7
  | .sb rs1 rs2 imm => encS imm rs2 rs1 0b000#3 0b0100011#7
  | .sh rs1 rs2 imm => encS imm rs2 rs1 0b001#3 0b0100011#7
  | .sw rs1 rs2 imm => encS imm rs2 rs1 0b010#3 0b0100011#7
  | .sd rs1 rs2 imm => encS imm rs2 rs1 0b011#3 0b0100011#7
  | .addi rd rs1 imm => encI imm rs1 0b000#3 rd 0b0010011#7
  | .slti rd rs1 imm => encI imm rs1 0b010#3 rd 0b0010011#7
  | .sltiu rd rs1 imm => encI imm rs1 0b011#3 rd 0b0010011#7
  | .xori rd rs1 imm => encI imm rs1 0b100#3 rd 0b0010011#7
  | .ori rd rs1 imm => encI imm rs1 0b110#3 rd 0b0010011#7
  | .andi rd rs1 imm => encI imm rs1 0b111#3 rd 0b0010011#7
  | .slli rd rs1 shamt => encI (0b000000#6 ++ shamt) rs1 0b001#3 rd 0b0010011#7
  | .srli rd rs1 shamt => encI (0b000000#6 ++ shamt) rs1 0b101#3 rd 0b0010011#7
  | .srai rd rs1 shamt => encI (0b010000#6 ++ shamt) rs1 0b101#3 rd 0b0010011#7
  | .add rd rs1 rs2 => encR 0b0000000#7 rs2 rs1 0b000#3 rd 0b0110011#7
  | .sub rd rs1 rs2 => encR 0b0100000#7 rs2 rs1 0b000#3 rd 0b0110011#7
  | .sll rd rs1 rs2 => encR 0b0000000#7 rs2 rs1 0b001#3 rd 0b0110011#7
  | .slt rd rs1 rs2 => encR 0b0000000#7 rs2 rs1 0b010#3 rd 0b0110011#7
  | .sltu rd rs1 rs2 => encR 0b0000000#7 rs2 rs1 0b011#3 rd 0b0110011#7
  | .xor rd rs1 rs2 => encR 0b0000000#7 rs2 rs1 0b100#3 rd 0b0110011#7
  | .srl rd rs1 rs2 => encR 0b0000000#7 rs2 rs1 0b101#3 rd 0b0110011#7
  | .sra rd rs1 rs2 => encR 0b0100000#7 rs2 rs1 0b101#3 rd 0b0110011#7
  | .or rd rs1 rs2 => encR 0b0000000#7 rs2 rs1 0b110#3 rd 0b0110011#7
  | .and rd rs1 rs2 => encR 0b0000000#7 rs2 rs1 0b111#3 rd 0b0110011#7
  | .addiw rd rs1 imm => encI imm rs1 0b000#3 rd 0b0011011#7
  | .slliw rd rs1 shamt => encI (0b0000000#7 ++ shamt) rs1 0b001#3 rd 0b0011011#7
  | .srliw rd rs1 shamt => encI (0b0000000#7 ++ shamt) rs1 0b101#3 rd 0b0011011#7
  | .sraiw rd rs1 shamt => encI (0b0100000#7 ++ shamt) rs1 0b101#3 rd 0b0011011#7
  | .addw rd rs1 rs2 => encR 0b0000000#7 rs2 rs1 0b000#3 rd 0b0111011#7
  | .subw rd rs1 rs2 => encR 0b0100000#7 rs2 rs1 0b000#3 rd 0b0111011#7
  | .sllw rd rs1 rs2 => encR 0b0000000#7 rs2 rs1 0b001#3 rd 0b0111011#7
  | .srlw rd rs1 rs2 => encR 0b0000000#7 rs2 rs1 0b101#3 rd 0b0111011#7
  | .sraw rd rs1 rs2 => encR 0b0100000#7 rs2 rs1 0b101#3 rd 0b0111011#7
  | .fence fm pred succ rs1 rd => encI (fm ++ pred ++ succ) rs1 0b000#3 rd 0b0001111#7

/-! The opcode table of R85, by family: mnemonic, match, mask. A word w is the row's instruction exactly when
`w &&& mask = match`. -/

def tableUpperAndJumps : List (String × InstrWord × InstrWord) :=
  [("LUI", 0x00000037#32, 0x0000007F#32),
   ("AUIPC", 0x00000017#32, 0x0000007F#32),
   ("JAL", 0x0000006F#32, 0x0000007F#32),
   ("JALR", 0x00000067#32, 0x0000707F#32)]

def tableBranches : List (String × InstrWord × InstrWord) :=
  [("BEQ", 0x00000063#32, 0x0000707F#32),
   ("BNE", 0x00001063#32, 0x0000707F#32),
   ("BLT", 0x00004063#32, 0x0000707F#32),
   ("BGE", 0x00005063#32, 0x0000707F#32),
   ("BLTU", 0x00006063#32, 0x0000707F#32),
   ("BGEU", 0x00007063#32, 0x0000707F#32)]

def tableLoadsAndStores : List (String × InstrWord × InstrWord) :=
  [("LB", 0x00000003#32, 0x0000707F#32),
   ("LH", 0x00001003#32, 0x0000707F#32),
   ("LW", 0x00002003#32, 0x0000707F#32),
   ("LD", 0x00003003#32, 0x0000707F#32),
   ("LBU", 0x00004003#32, 0x0000707F#32),
   ("LHU", 0x00005003#32, 0x0000707F#32),
   ("LWU", 0x00006003#32, 0x0000707F#32),
   ("SB", 0x00000023#32, 0x0000707F#32),
   ("SH", 0x00001023#32, 0x0000707F#32),
   ("SW", 0x00002023#32, 0x0000707F#32),
   ("SD", 0x00003023#32, 0x0000707F#32)]

def tableOpImm : List (String × InstrWord × InstrWord) :=
  [("ADDI", 0x00000013#32, 0x0000707F#32),
   ("SLTI", 0x00002013#32, 0x0000707F#32),
   ("SLTIU", 0x00003013#32, 0x0000707F#32),
   ("XORI", 0x00004013#32, 0x0000707F#32),
   ("ORI", 0x00006013#32, 0x0000707F#32),
   ("ANDI", 0x00007013#32, 0x0000707F#32),
   ("SLLI", 0x00001013#32, 0xFC00707F#32),
   ("SRLI", 0x00005013#32, 0xFC00707F#32),
   ("SRAI", 0x40005013#32, 0xFC00707F#32)]

def tableOp : List (String × InstrWord × InstrWord) :=
  [("ADD", 0x00000033#32, 0xFE00707F#32),
   ("SUB", 0x40000033#32, 0xFE00707F#32),
   ("SLL", 0x00001033#32, 0xFE00707F#32),
   ("SLT", 0x00002033#32, 0xFE00707F#32),
   ("SLTU", 0x00003033#32, 0xFE00707F#32),
   ("XOR", 0x00004033#32, 0xFE00707F#32),
   ("SRL", 0x00005033#32, 0xFE00707F#32),
   ("SRA", 0x40005033#32, 0xFE00707F#32),
   ("OR", 0x00006033#32, 0xFE00707F#32),
   ("AND", 0x00007033#32, 0xFE00707F#32)]

def tableWordAndFence : List (String × InstrWord × InstrWord) :=
  [("ADDIW", 0x0000001B#32, 0x0000707F#32),
   ("SLLIW", 0x0000101B#32, 0xFE00707F#32),
   ("SRLIW", 0x0000501B#32, 0xFE00707F#32),
   ("SRAIW", 0x4000501B#32, 0xFE00707F#32),
   ("ADDW", 0x0000003B#32, 0xFE00707F#32),
   ("SUBW", 0x4000003B#32, 0xFE00707F#32),
   ("SLLW", 0x0000103B#32, 0xFE00707F#32),
   ("SRLW", 0x0000503B#32, 0xFE00707F#32),
   ("SRAW", 0x4000503B#32, 0xFE00707F#32),
   ("FENCE", 0x0000000F#32, 0x0000707F#32)]

def opcodeTable : List (String × InstrWord × InstrWord) :=
  tableUpperAndJumps ++ tableBranches ++ tableLoadsAndStores ++ tableOpImm ++ tableOp ++ tableWordAndFence

/-- The instruction this decoder reads from the bits `w` of a table row: laid out as the four bytes of memory and decoded from
them. The block has instructions of 32 bits only (R60), so wider rows have none. -/
def decodeTableWord (nbits w : Nat) : Option Instr :=
  if nbits ≤ 32 then
    match decodeBytes (wordBytes (BitVec.ofNat 32 (w % 2 ^ nbits))) with
    | .ok (i, _) => some i
    | .error _ => none
  else none

end Sys2Proof
end

