-- ==== Sys2Proof/Config.lean ====
section
/-! DEFINITION. What the spec hands to the loader, the bus or the host as a parameter (00_scope.md R7, 92_eei_decisions.md D2,
D12): the values this model takes. The block itself leaves nothing open (R260), so there is no free value here. -/

namespace Sys2Proof.Config

/-- `INIT_X[1..31]` of the model's reset state. DESIGN CHOICE (unsafe), log entry 1: the spec leaves them to the loader (R37). -/
def initX : Vector Word 31 := Vector.replicate 31 0#64

/-- `INIT_PC` of the model's reset state. DESIGN CHOICE (unsafe), log entry 2: the spec leaves it to the loader and asks only
that it be a multiple of 4 (R251). -/
def initPc : Word := 0#64

/-- What a byte of memory that nothing has written reads as. DESIGN CHOICE (unsafe), log entry 3: the reference bus is a total
map whose initial content the spec leaves to the test (R57); its own vectors take every other byte as 0x00. -/
def unlistedByte : Byte := 0#8

end Sys2Proof.Config
end

