-- ==== Sys2Proof/Machine/State.lean ====
section
/-! DEFINITION. The state of the machine, the two faults of a step, and the state after reset (10_state.md, 60_exceptions.md,
70_reset_and_hazards.md). The block's own state is `regs` and `pc` (R14, R20, R25); `mem` is the content of the bus it is joined
to (R57, log entry 4). There are no flags, no CSRs, no privilege level and no hidden state (R31 to R35). -/

namespace Sys2Proof.Machine

/-- The content of the reference bus (R57): the bytes that differ from `Config.unlistedByte`, by address. Its canonical form is
`Memory.wf` (Bus.lean). -/
abbrev Memory := List Host.Cell

/-- The whole state. Plain data. -/
structure State where
  /-- x1 to x31, in this order. Register 0 has no storage (R22, decision D21, C6). -/
  regs : Vector Word 31
  /-- The address of the instruction being executed (R25, R26). -/
  pc : Word
  /-- What the bus holds. -/
  mem : Memory
deriving DecidableEq, Repr

/-- The faults of R220 to R222. A fault commits nothing (R223), so the state after it is the state before it. -/
inductive Fault where
  /-- Raised at decode by a word that is no instruction (R220). Safe: the block does exactly this, and what its caller does
  next is left out (log entry 8). -/
  | illegalInstruction
  /-- Raised by JAL, JALR and taken branches whose target is not a multiple of 4 (R221). Safe, as above. -/
  | instructionAddressMisaligned
deriving DecidableEq, Repr

/-- The refusals. The model refuses nothing: every instruction has its meaning (R222: there is no "unimplemented"). -/
inductive Refusal where
  /-- An instruction without a meaning, by its mnemonic. No arm of `exec` answers it. Safe. -/
  | notModelled (mnemonic : String)
deriving DecidableEq, Repr

/-- The first state as the loader constructs it from `INIT_X`, `INIT_PC` and the bus's content (R37, R250). -/
def State.initial (initX : Vector Word 31) (initPc : Word) (mem : Memory) : State :=
  { regs := initX, pc := initPc, mem := mem }

/-- The state after reset, the loader's parameters at the values of Config.lean (log entries 1 to 3) and no program placed
(log entry 7). -/
def State.reset : State := State.initial Config.initX Config.initPc []

end Sys2Proof.Machine
end

