-- ==== Sys2Proof/Machine/Bus.lean ====
section
/-! DEFINITION. The reference bus (20_memory.md R40 to R45, R57): a total map from 64-bit byte addresses to bytes, little-endian
(decision D1), every alignment accepted, no side effects. That the bus is this one is log entry 4, its byte order log entry 5. -/

namespace Sys2Proof.Machine

/-- The entries of `m` lie at strictly rising addresses from `lo` on, all below 2^64, and none holds the unlisted byte. -/
def Memory.wfFrom (lo : Nat) : Memory → Bool
  | [] => true
  | (a, b) :: m => decide (lo ≤ a) && decide (a < 2 ^ 64) && decide (b ≠ Config.unlistedByte) && Memory.wfFrom (a + 1) m

/-- The canonical form of memory: equal memories are equal lists. -/
def Memory.wf (m : Memory) : Bool := Memory.wfFrom 0 m

/-- The byte at a key: the first entry listed for it, else the unlisted byte. -/
def Memory.get : Memory → Nat → Byte
  | [], _ => Config.unlistedByte
  | (k, b) :: m, a => if k = a then b else Memory.get m a

/-- `m` without the entries for the key `a`. -/
def Memory.erase (m : Memory) (a : Nat) : Memory := m.filter fun c => decide (c.1 ≠ a)

/-- `m` with an entry for the key `a` in its place by address. -/
def Memory.insert : Memory → Nat → Byte → Memory
  | [], a, v => [(a, v)]
  | (k, b) :: m, a, v => if a < k then (a, v) :: (k, b) :: m else (k, b) :: Memory.insert m a v

/-- `m` with the byte `v` at the key `a`; the unlisted byte is stored by listing nothing. -/
def Memory.set (m : Memory) (a : Nat) (v : Byte) : Memory :=
  if v = Config.unlistedByte then Memory.erase m a else Memory.insert (Memory.erase m a) a v

/-- The byte at a 64-bit address. -/
def byteAt (m : Memory) (a : Addr) : Byte := Memory.get m a.toNat

/-- `m` with one byte stored. -/
def setByte (m : Memory) (a : Addr) (v : Byte) : Memory := Memory.set m a.toNat v

/-- `MemRead(a, n)` (R41, R45, R57): the little-endian integer of the bytes `a` to `a + n - 1`, addresses modulo 2^64. -/
def memRead (m : Memory) (a : Addr) : (n : Nat) → BitVec (8 * n)
  | 0 => 0
  | n + 1 => memRead m (a + 1) n ++ byteAt m a

/-- `MemWrite(a, n, v)` (R42, R45, R57): byte `v[8i+7:8i]` at `a + i` for i = 0 to n - 1, addresses modulo 2^64. -/
def memWrite (m : Memory) (a : Addr) : (n : Nat) → BitVec (8 * n) → Memory
  | 0, _ => m
  | n + 1, v => memWrite (setByte m a (v.extractLsb' 0 8)) (a + 1) n (v.extractLsb' 8 (8 * n))

/-- An access width in bytes (R40, R48). -/
def widthBytes : Width → Nat
  | .byte => 1
  | .half => 2
  | .word => 4
  | .double => 8

/-- One bus operation as the block issues it: the ports `bus_op`, `bus_width`, `bus_addr` and `bus_wdata` of R38, with
`bus_op = none` as the absence of a request. Store data is already truncated to the width (R42). -/
inductive BusRequest where
  | load (w : Width) (addr : Addr)
  | store (w : Width) (addr : Addr) (data : Word)
deriving DecidableEq, Repr

/-- The port `bus_rdata` (R38, R41): the loaded integer in the low bits; a store answers nothing. -/
def busAnswer (m : Memory) : BusRequest → Word
  | .load w a => (memRead m a (widthBytes w)).setWidth 64
  | .store _ _ _ => 0

/-- The content of the bus after one operation (R43: complete within the step). -/
def busPerform (m : Memory) : BusRequest → Memory
  | .load _ _ => m
  | .store w a d => memWrite m a (widthBytes w) (d.setWidth (8 * widthBytes w))

end Sys2Proof.Machine
end

