-- ==== Sys2Proof/Machine/Operands.lean ====
section
/-! DEFINITION. The operand forms: register read ports, effective addresses, jump targets, shift amounts, word operands, load
results and store data. All additions wrap modulo 2^64 (00_scope.md R11, log entry 14). -/

namespace Sys2Proof.Machine

/-- The read port `x[r]`: register 0 reads as 0 (R20, R21). -/
def State.x (s : State) (r : RegIdx) : Word := if h : r.val = 0 then 0 else s.regs[r.val - 1]'(by omega)

/-- The link value `pc + 4` (R26, R161). -/
def linkValue (s : State) : Word := s.pc + 4

/-- The effective address `x[rs1] + imm` of loads and stores (R180). -/
def effectiveAddress (s : State) (rs1 : RegIdx) (imm : BitVec 12) : Addr := s.x rs1 + sext imm

/-- The target `pc + offset` of JAL and the branches (R161, R173). -/
def relativeTarget {n : Nat} (s : State) (off : BitVec n) : Word := s.pc + sext off

/-- The target of JALR: the sum with bit 0 forced to 0 (R162). -/
def jalrTarget (s : State) (rs1 : RegIdx) (imm : BitVec 12) : Word := (s.x rs1 + sext imm) &&& ~~~1#64

/-- The alignment check on a computed target: `t[1:0] ≠ 00` (R160). -/
def misaligned (t : Word) : Bool := t.extractLsb' 0 2 != 0#2

/-- The 64-bit shift amount in a register: its low 6 bits (R131). -/
def shiftAmount6 (v : Word) : Nat := (v.extractLsb' 0 6).toNat

/-- The word shift amount in a register: its low 5 bits (R153). -/
def shiftAmount5 (v : Word) : Nat := (v.extractLsb' 0 5).toNat

/-! The three shifts of R10 on a value of any width; the arithmetic one is R13's, the one routine of every shift site. -/

def shiftLeft {n : Nat} (a : BitVec n) (k : Nat) : BitVec n := a <<< k
def shiftRight {n : Nat} (a : BitVec n) (k : Nat) : BitVec n := a >>> k
def shiftRightArith {n : Nat} (a : BitVec n) (k : Nat) : BitVec n := a.sshiftRight k

/-- The low word of a register, the operand of the word instructions (R151). -/
def lowWord (v : Word) : BitVec 32 := v.extractLsb' 0 32

/-- `zext_N` of R10. -/
def zext {n : Nat} (v : BitVec n) : Word := v.setWidth 64

/-- The load-result converter on `bus_rdata` (R181). -/
def convertLoad (w : Width) (e : LoadExt) (raw : Word) : Word :=
  match e with
  | .sign => sext (raw.extractLsb' 0 (8 * widthBytes w))
  | .zero => zext (raw.extractLsb' 0 (8 * widthBytes w))

/-- Store data: the register's low bits, the bits above the width 0 (R182). -/
def storeData (w : Width) (v : Word) : Word := zext (v.extractLsb' 0 (8 * widthBytes w))

/-- The one bus operation of a load (R44, R195). -/
def loadRequest (w : Width) (rs1 : RegIdx) (imm : BitVec 12) (s : State) : BusRequest :=
  .load w (effectiveAddress s rs1 imm)

/-- The one bus operation of a store (R44, R195). -/
def storeRequest (w : Width) (rs1 rs2 : RegIdx) (imm : BitVec 12) (s : State) : BusRequest :=
  .store w (effectiveAddress s rs1 imm) (storeData w (s.x rs2))

end Sys2Proof.Machine
end

