-- ==== Sys2Proof/Machine/Ops.lean ====
section
/-! DEFINITION. The shared operations of a step: the register write port, the commit of the pc, raising a fault, and the shapes the
instruction families are made of (10_state.md R22, R27; 43_control_flow.md R160, R170, R173; 44_load_store.md R195;
60_exceptions.md R222, R223). -/

namespace Sys2Proof.Machine

/-- The outcome of one step (R222). -/
abbrev Result := Host.Outcome State Fault Refusal

def State.setPc (s : State) (t : Word) : State := { s with pc := t }
def State.setMem (s : State) (m : Memory) : State := { s with mem := m }

/-- The write port `x[r] <- v`: a write to register 0 is discarded (R22). -/
def State.setX (s : State) (r : RegIdx) (v : Word) : State :=
  if h : r.val = 0 then s else { s with regs := s.regs.set (r.val - 1) v (by omega) }

/-- Raising a fault: the outcome is the fault, nothing is saved, no mode changes, no control is transferred and nothing is
committed (R220 to R223, R232). There is no return from it (R233). -/
def raise (f : Fault) : Result := .fault f

/-- The program counter at commit: the validated target where one was set, else the default advance (R27). -/
def nextPc (pc : Word) (target : Option Word) : Word :=
  match target with
  | some t => t
  | none => pc + 4

/-- Commit of the step, the one place that writes the pc (R27). -/
def commit (target : Option Word) (s : State) : Result := .next (s.setPc (nextPc s.pc target))

/-- `x[rd] <- v; pc <- pc + 4` (R110, R130, R152, R202). -/
def writeBack (rd : RegIdx) (v : Word) (s : State) : Result := commit none (s.setX rd v)

/-- A 32-bit result, sign-extended into the destination whatever the operation (R151). -/
def writeBackWord (rd : RegIdx) (r32 : BitVec 32) (s : State) : Result := writeBack rd (sext r32) s

/-- JAL and JALR: the target is checked before the link write and the pc update (R161, R162, R170). -/
def jumpAndLink (rd : RegIdx) (t : Word) (s : State) : Result :=
  if misaligned t then raise .instructionAddressMisaligned else commit (some t) (s.setX rd (linkValue s))

/-- A conditional branch: the target is computed and checked only if it is taken (R173). -/
def branchIf (c : Bool) (off : BitVec 13) (s : State) : Result :=
  if c then
    if misaligned (relativeTarget s off) then raise .instructionAddressMisaligned
    else commit (some (relativeTarget s off)) s
  else commit none s

/-- A load: one bus operation, its answer converted and written; with rd = 0 the operation is issued all the same and its
result discarded (R181, R195, decision D14). -/
def loadInto (w : Width) (e : LoadExt) (rd rs1 : RegIdx) (imm : BitVec 12) (s : State) : Result :=
  writeBack rd (convertLoad w e (busAnswer s.mem (loadRequest w rs1 imm s))) s

/-- A store: one bus operation and no register written (R195). -/
def storeFrom (w : Width) (rs1 rs2 : RegIdx) (imm : BitVec 12) (s : State) : Result :=
  commit none (s.setMem (busPerform s.mem (storeRequest w rs1 rs2 imm s)))

/-- The host's fetch before each step: `MemRead(pc, 4)` on the same bus (R252, decision D13, log entry 6). -/
def fetchWord (s : State) : InstrWord := memRead s.mem s.pc 4

end Sys2Proof.Machine
end

