-- ==== Sys2Proof/Machine/Control.lean ====
section
/-! DEFINITION. The eight control-transfer instructions (43_control_flow.md). No delay slot, no annulment (R172). -/

namespace Sys2Proof.Machine

/-- JAL (R161): target `pc + imm_J`. -/
def execJal (rd : RegIdx) (off : BitVec 21) (s : State) : Result :=
  jumpAndLink rd (relativeTarget s off) s

/-- JALR (R162): target `(x[rs1] + imm_I) & ~1`, from the old value of the register also where rd = rs1. -/
def execJalr (rd rs1 : RegIdx) (imm : BitVec 12) (s : State) : Result :=
  jumpAndLink rd (jalrTarget s rs1 imm) s

/-- BEQ (R163, R173). -/
def execBeq (rs1 rs2 : RegIdx) (off : BitVec 13) (s : State) : Result :=
  branchIf (condEq (s.x rs1) (s.x rs2)) off s

/-- BNE (R164, R173). -/
def execBne (rs1 rs2 : RegIdx) (off : BitVec 13) (s : State) : Result :=
  branchIf (condNe (s.x rs1) (s.x rs2)) off s

/-- BLT (R165, R173). -/
def execBlt (rs1 rs2 : RegIdx) (off : BitVec 13) (s : State) : Result :=
  branchIf (condLt (s.x rs1) (s.x rs2)) off s

/-- BGE (R166, R173). -/
def execBge (rs1 rs2 : RegIdx) (off : BitVec 13) (s : State) : Result :=
  branchIf (condGe (s.x rs1) (s.x rs2)) off s

/-- BLTU (R167, R173). -/
def execBltu (rs1 rs2 : RegIdx) (off : BitVec 13) (s : State) : Result :=
  branchIf (condLtu (s.x rs1) (s.x rs2)) off s

/-- BGEU (R168, R173). -/
def execBgeu (rs1 rs2 : RegIdx) (off : BitVec 13) (s : State) : Result :=
  branchIf (condGeu (s.x rs1) (s.x rs2)) off s


end Sys2Proof.Machine
end

