-- ==== Sys2Proof/Machine/Fence.lean ====
section
/-! DEFINITION. FENCE, the one fence (46_fence_system.md). The system instructions are IllegalInstruction at decode (R213). -/

namespace Sys2Proof.Machine

/-- FENCE (R210, R211): only the pc advances; no field is examined, rd is not written, rs1 is not read, no bus operation. -/
def execFence (_fm _pred _succ : BitVec 4) (_rs1 _rd : RegIdx) (s : State) : Result :=
  commit none s


end Sys2Proof.Machine
end

