-- ==== Sys2Proof/Machine/LoadStore.lean ====
section
/-! DEFINITION. The seven loads and four stores (44_load_store.md). Once decoded they raise nothing and accept every alignment (R46, R195). -/

namespace Sys2Proof.Machine

/-- LB (R183). -/
def execLb (rd rs1 : RegIdx) (imm : BitVec 12) (s : State) : Result :=
  loadInto .byte .sign rd rs1 imm s

/-- LH (R184). -/
def execLh (rd rs1 : RegIdx) (imm : BitVec 12) (s : State) : Result :=
  loadInto .half .sign rd rs1 imm s

/-- LW (R185). -/
def execLw (rd rs1 : RegIdx) (imm : BitVec 12) (s : State) : Result :=
  loadInto .word .sign rd rs1 imm s

/-- LD (R186): all 64 bits, nothing to extend. -/
def execLd (rd rs1 : RegIdx) (imm : BitVec 12) (s : State) : Result :=
  loadInto .double .zero rd rs1 imm s

/-- LBU (R187). -/
def execLbu (rd rs1 : RegIdx) (imm : BitVec 12) (s : State) : Result :=
  loadInto .byte .zero rd rs1 imm s

/-- LHU (R188). -/
def execLhu (rd rs1 : RegIdx) (imm : BitVec 12) (s : State) : Result :=
  loadInto .half .zero rd rs1 imm s

/-- LWU (R189). -/
def execLwu (rd rs1 : RegIdx) (imm : BitVec 12) (s : State) : Result :=
  loadInto .word .zero rd rs1 imm s

/-- SB (R190). -/
def execSb (rs1 rs2 : RegIdx) (imm : BitVec 12) (s : State) : Result :=
  storeFrom .byte rs1 rs2 imm s

/-- SH (R191). -/
def execSh (rs1 rs2 : RegIdx) (imm : BitVec 12) (s : State) : Result :=
  storeFrom .half rs1 rs2 imm s

/-- SW (R192). -/
def execSw (rs1 rs2 : RegIdx) (imm : BitVec 12) (s : State) : Result :=
  storeFrom .word rs1 rs2 imm s

/-- SD (R193). -/
def execSd (rs1 rs2 : RegIdx) (imm : BitVec 12) (s : State) : Result :=
  storeFrom .double rs1 rs2 imm s


end Sys2Proof.Machine
end

