-- ==== Sys2Proof/Machine/Op.lean ====
section
/-! DEFINITION. The ten register-register instructions of major opcode OP (41_alu_reg_reg.md). Their shared template is R130. -/

namespace Sys2Proof.Machine

/-- ADD (R120). -/
def execAdd (rd rs1 rs2 : RegIdx) (s : State) : Result :=
  writeBack rd (s.x rs1 + s.x rs2) s

/-- SUB (R121). -/
def execSub (rd rs1 rs2 : RegIdx) (s : State) : Result :=
  writeBack rd (s.x rs1 - s.x rs2) s

/-- SLL (R122, R131). -/
def execSll (rd rs1 rs2 : RegIdx) (s : State) : Result :=
  writeBack rd (shiftLeft (s.x rs1) (shiftAmount6 (s.x rs2))) s

/-- SLT (R123). -/
def execSlt (rd rs1 rs2 : RegIdx) (s : State) : Result :=
  writeBack rd (boolWord (signedLess (s.x rs1) (s.x rs2))) s

/-- SLTU (R124). -/
def execSltu (rd rs1 rs2 : RegIdx) (s : State) : Result :=
  writeBack rd (boolWord (unsignedLess (s.x rs1) (s.x rs2))) s

/-- XOR (R125). -/
def execXor (rd rs1 rs2 : RegIdx) (s : State) : Result :=
  writeBack rd (s.x rs1 ^^^ s.x rs2) s

/-- SRL (R126, R131). -/
def execSrl (rd rs1 rs2 : RegIdx) (s : State) : Result :=
  writeBack rd (shiftRight (s.x rs1) (shiftAmount6 (s.x rs2))) s

/-- SRA (R127, R131). -/
def execSra (rd rs1 rs2 : RegIdx) (s : State) : Result :=
  writeBack rd (shiftRightArith (s.x rs1) (shiftAmount6 (s.x rs2))) s

/-- OR (R128). -/
def execOr (rd rs1 rs2 : RegIdx) (s : State) : Result :=
  writeBack rd (s.x rs1 ||| s.x rs2) s

/-- AND (R129). -/
def execAnd (rd rs1 rs2 : RegIdx) (s : State) : Result :=
  writeBack rd (s.x rs1 &&& s.x rs2) s


end Sys2Proof.Machine
end

