-- ==== Sys2Proof/Machine/OpImm.lean ====
section
/-! DEFINITION. The nine register-immediate instructions of major opcode OP-IMM (40_alu_reg_imm.md). Their shared template is R110. -/

namespace Sys2Proof.Machine

/-- ADDI (R100): `x[rs1] + imm_I`, modulo 2^64. -/
def execAddi (rd rs1 : RegIdx) (imm : BitVec 12) (s : State) : Result :=
  writeBack rd (s.x rs1 + sext imm) s

/-- SLTI (R101): 1 if `x[rs1] <s imm_I`, else 0. -/
def execSlti (rd rs1 : RegIdx) (imm : BitVec 12) (s : State) : Result :=
  writeBack rd (boolWord (signedLess (s.x rs1) (sext imm))) s

/-- SLTIU (R102): 1 if `x[rs1] <u imm_I`, the immediate sign-extended first, else 0. -/
def execSltiu (rd rs1 : RegIdx) (imm : BitVec 12) (s : State) : Result :=
  writeBack rd (boolWord (unsignedLess (s.x rs1) (sext imm))) s

/-- XORI (R103): bitwise exclusive or. -/
def execXori (rd rs1 : RegIdx) (imm : BitVec 12) (s : State) : Result :=
  writeBack rd (s.x rs1 ^^^ sext imm) s

/-- ORI (R104): bitwise or. -/
def execOri (rd rs1 : RegIdx) (imm : BitVec 12) (s : State) : Result :=
  writeBack rd (s.x rs1 ||| sext imm) s

/-- ANDI (R105): bitwise and. -/
def execAndi (rd rs1 : RegIdx) (imm : BitVec 12) (s : State) : Result :=
  writeBack rd (s.x rs1 &&& sext imm) s

/-- SLLI (R106, R111). -/
def execSlli (rd rs1 : RegIdx) (shamt : BitVec 6) (s : State) : Result :=
  writeBack rd (shiftLeft (s.x rs1) shamt.toNat) s

/-- SRLI (R107, R111). -/
def execSrli (rd rs1 : RegIdx) (shamt : BitVec 6) (s : State) : Result :=
  writeBack rd (shiftRight (s.x rs1) shamt.toNat) s

/-- SRAI (R108, R111). -/
def execSrai (rd rs1 : RegIdx) (shamt : BitVec 6) (s : State) : Result :=
  writeBack rd (shiftRightArith (s.x rs1) shamt.toNat) s


end Sys2Proof.Machine
end

