-- ==== Sys2Proof/Machine/OpWord.lean ====
section
/-! DEFINITION. The nine 32-bit word instructions of major opcodes OP-IMM-32 and OP-32 (42_alu_word.md). Every one computes a 32-bit result from
the low words of its operands and writes its sign extension (R151, R152). -/

namespace Sys2Proof.Machine

/-- ADDIW (R140): the low word of the sum. -/
def execAddiw (rd rs1 : RegIdx) (imm : BitVec 12) (s : State) : Result :=
  writeBackWord rd (lowWord (s.x rs1 + sext imm)) s

/-- SLLIW (R141, R153): a shift of the 32-bit value. -/
def execSlliw (rd rs1 : RegIdx) (shamt : BitVec 5) (s : State) : Result :=
  writeBackWord rd (shiftLeft (lowWord (s.x rs1)) shamt.toNat) s

/-- SRLIW (R142, R153): a shift of the 32-bit value. -/
def execSrliw (rd rs1 : RegIdx) (shamt : BitVec 5) (s : State) : Result :=
  writeBackWord rd (shiftRight (lowWord (s.x rs1)) shamt.toNat) s

/-- SRAIW (R143, R153): a shift of the 32-bit value. -/
def execSraiw (rd rs1 : RegIdx) (shamt : BitVec 5) (s : State) : Result :=
  writeBackWord rd (shiftRightArith (lowWord (s.x rs1)) shamt.toNat) s

/-- ADDW (R145). -/
def execAddw (rd rs1 rs2 : RegIdx) (s : State) : Result :=
  writeBackWord rd (lowWord (s.x rs1 + s.x rs2)) s

/-- SUBW (R146). -/
def execSubw (rd rs1 rs2 : RegIdx) (s : State) : Result :=
  writeBackWord rd (lowWord (s.x rs1 - s.x rs2)) s

/-- SLLW (R147, R153). -/
def execSllw (rd rs1 rs2 : RegIdx) (s : State) : Result :=
  writeBackWord rd (shiftLeft (lowWord (s.x rs1)) (shiftAmount5 (s.x rs2))) s

/-- SRLW (R148, R153). -/
def execSrlw (rd rs1 rs2 : RegIdx) (s : State) : Result :=
  writeBackWord rd (shiftRight (lowWord (s.x rs1)) (shiftAmount5 (s.x rs2))) s

/-- SRAW (R149, R153). -/
def execSraw (rd rs1 rs2 : RegIdx) (s : State) : Result :=
  writeBackWord rd (shiftRightArith (lowWord (s.x rs1)) (shiftAmount5 (s.x rs2))) s


end Sys2Proof.Machine
end

