-- ==== Sys2Proof/Machine/Upper.lean ====
section
/-! DEFINITION. The upper-immediate instructions LUI and AUIPC (45_upper_immediate.md; that they exist is decision D5 of the spec). -/

namespace Sys2Proof.Machine

/-- LUI (R200): `imm_U`. -/
def execLui (rd : RegIdx) (imm20 : BitVec 20) (s : State) : Result :=
  writeBack rd (upperImmediate imm20) s

/-- AUIPC (R201): `pc + imm_U`, the pc of this instruction. -/
def execAuipc (rd : RegIdx) (imm20 : BitVec 20) (s : State) : Result :=
  writeBack rd (s.pc + upperImmediate imm20) s


end Sys2Proof.Machine
end

