-- ==== Sys2Proof/Machine/Execute.lean ====
section
/-! DEFINITION. The block's one operation, `execute(instructionWord, cpu)` (10_state.md R38), and the bus port of a step: which bus
operation an instruction issues (20_memory.md R44). -/

namespace Sys2Proof.Machine

/-- One execution of the block on one instruction word: decode, then the instruction's own meaning; a word that is no
instruction is IllegalInstruction whatever the state (R4, R83, R220, R227). -/
def execute (w : InstrWord) (s : State) : Result :=
  match decode w with
  | .ok i => exec i s
  | .error _ => raise .illegalInstruction

/-- The bus operation of a step whose instruction is `i`: exactly one for a load or store, none for the rest (R44, decision D24);
a load to x0 issues its own as well (decision D14, log entry 12). -/
def busRequest (i : Instr) (s : State) : Option BusRequest :=
  match i with
  | .lui _ _ => none
  | .auipc _ _ => none
  | .jal _ _ => none
  | .jalr _ _ _ => none
  | .beq _ _ _ => none
  | .bne _ _ _ => none
  | .blt _ _ _ => none
  | .bge _ _ _ => none
  | .bltu _ _ _ => none
  | .bgeu _ _ _ => none
  | .lb _ rs1 imm => some (loadRequest .byte rs1 imm s)
  | .lh _ rs1 imm => some (loadRequest .half rs1 imm s)
  | .lw _ rs1 imm => some (loadRequest .word rs1 imm s)
  | .ld _ rs1 imm => some (loadRequest .double rs1 imm s)
  | .lbu _ rs1 imm => some (loadRequest .byte rs1 imm s)
  | .lhu _ rs1 imm => some (loadRequest .half rs1 imm s)
  | .lwu _ rs1 imm => some (loadRequest .word rs1 imm s)
  | .sb rs1 rs2 imm => some (storeRequest .byte rs1 rs2 imm s)
  | .sh rs1 rs2 imm => some (storeRequest .half rs1 rs2 imm s)
  | .sw rs1 rs2 imm => some (storeRequest .word rs1 rs2 imm s)
  | .sd rs1 rs2 imm => some (storeRequest .double rs1 rs2 imm s)
  | .addi _ _ _ => none
  | .slti _ _ _ => none
  | .sltiu _ _ _ => none
  | .xori _ _ _ => none
  | .ori _ _ _ => none
  | .andi _ _ _ => none
  | .slli _ _ _ => none
  | .srli _ _ _ => none
  | .srai _ _ _ => none
  | .add _ _ _ => none
  | .sub _ _ _ => none
  | .sll _ _ _ => none
  | .slt _ _ _ => none
  | .sltu _ _ _ => none
  | .xor _ _ _ => none
  | .srl _ _ _ => none
  | .sra _ _ _ => none
  | .or _ _ _ => none
  | .and _ _ _ => none
  | .addiw _ _ _ => none
  | .slliw _ _ _ => none
  | .srliw _ _ _ => none
  | .sraiw _ _ _ => none
  | .addw _ _ _ => none
  | .subw _ _ _ => none
  | .sllw _ _ _ => none
  | .srlw _ _ _ => none
  | .sraw _ _ _ => none
  | .fence _ _ _ _ _ => none

/-- The state the caller holds after a step: the committed one, or after any other outcome the state before it (R223, R226). -/
def stateAfter (s : State) : Result → State
  | .next t => t
  | .fault _ => s
  | .refused _ => s

end Sys2Proof.Machine
end

