-- ==== Sys2Proof/Machine/Step.lean ====
section
/-! DEFINITION. One step of the machine: the host's fetch and then the block (70_reset_and_hazards.md R252, R255). -/

namespace Sys2Proof.Machine

/-- The host fetches the word at the pc and the block executes it. -/
def step (s : State) : Host.Outcome State Fault Refusal := execute (fetchWord s) s

/-- `s` with the instruction whose bits are `w` stored where the next step fetches: its four bytes at the pc. This stands for
the loader's placing of a program (log entry 7). -/
def State.withFetchWord (s : State) (nbits w : Nat) : State :=
  s.setMem (memWrite s.mem s.pc 4 (BitVec.ofNat 32 (w % 2 ^ nbits)))

end Sys2Proof.Machine
end

