-- ==== Sys2Proof/Machine/OpenBus.lean ====
section
/-! DEFINITION. The block on an open bus: the parameter `BUS` of 00_scope.md R7 (20_memory.md R40 to R43, R46, R50, R57; decision
D12). `exec`, `execute` and `step` stand on the reference bus, the parameter's default value; the definitions here take any other:
one with devices, with side effects on a read, with its own answer at a misaligned or unbacked address, or that refuses an access,
which leaves the step stuck and never makes it a fault (93_implementation_defined.md U3; log entries 4 and 19). -/

namespace Sys2Proof.Machine

/-- A bus: its content and its two kinds of operation at the four widths (R40). A load answers an integer, of which the block takes
the low bits of the width (R41), and may change the content (R49). `none` is an access that the bus refuses. -/
structure Bus where
  Content : Type
  load : Width → Addr → Content → Option (Word × Content)
  store : Width → Addr → Word → Content → Option Content

/-- One operation on a bus: the answer, 0 for a store, and the content after it. -/
def Bus.perform (B : Bus) (c : B.Content) : BusRequest → Option (Word × B.Content)
  | .load w a => B.load w a c
  | .store w a v => (B.store w a v c).map fun c' => (0, c')

/-- The reference bus as a value of the parameter (R57). It accepts everything. -/
def referenceBus : Bus where
  Content := Memory
  load := fun w a m => some (busAnswer m (.load w a), busPerform m (.load w a))
  store := fun w a v m => some (busPerform m (.store w a v))

/-- The block's own state, x1 to x31 and the pc (10_state.md R14, R20, R25): a state of the machine without its bus. -/
structure Block where
  regs : Vector Word 31
  pc : Word
deriving DecidableEq, Repr

def State.block (s : State) : Block := { regs := s.regs, pc := s.pc }

/-- The block joined to the reference bus of content `m`. -/
def Block.withMemory (b : Block) (m : Memory) : State := { regs := b.regs, pc := b.pc, mem := m }

/-- The read port of the block (R20, R21). -/
def Block.x (b : Block) (r : RegIdx) : Word := (b.withMemory []).x r

/-- The block and the content of the bus it stands on. -/
abbrev BusState (B : Bus) := Block × B.Content

/-- A fault, and the content of the bus when the host learns of it: the block has changed nothing of it (R223), the host's fetch
before the step may have (R252). -/
abbrev BusFault (B : Bus) := Fault × B.Content

/-- Why a step on an open bus has no outcome. -/
inductive BusStop where
  /-- The bus refused the access: the step is stuck (U3). Safe: nothing can be proved past it. -/
  | stuck (r : BusRequest)
  /-- A refusal of the instruction itself; there is none (R222). -/
  | refused (r : Refusal)
deriving DecidableEq, Repr

/-- The outcome of a step on the bus `B`. -/
abbrev BusResult (B : Bus) := Host.Outcome (BusState B) (BusFault B) BusStop

/-- A memory that gives the answer `v` to the request: all that the block learns of its bus in a step (R41, R44). -/
def answering : BusRequest → Word → Memory
  | .load w a, v => memWrite [] a (widthBytes w) (v.setWidth (8 * widthBytes w))
  | .store _ _ _, _ => []

/-- An outcome of the block, with the content the bus has after the step. -/
def onBus (B : Bus) (c : B.Content) : Result → BusResult B
  | .next t => .next (t.block, c)
  | .fault f => .fault (f, c)
  | .refused r => .refused (.refused r)

/-- The instruction `i` on the bus `B`: its one operation, if it has one, is performed by `B` (R44), and the block goes on with the
answer. -/
def execOn (B : Bus) (i : Instr) (s : BusState B) : BusResult B :=
  match busRequest i (s.1.withMemory []) with
  | none => onBus B s.2 (exec i (s.1.withMemory []))
  | some r =>
    match B.perform s.2 r with
    | none => .refused (.stuck r)
    | some (v, c) => onBus B c (exec i (s.1.withMemory (answering r v)))

/-- `execute(instructionWord, cpu)` on the bus `B` (R38). -/
def executeOn (B : Bus) (w : InstrWord) (s : BusState B) : BusResult B :=
  match decode w with
  | .ok i => execOn B i s
  | .error _ => .fault (.illegalInstruction, s.2)

/-- One step on the bus `B`: the host's fetch, an operation of the same bus (R252), and then the block. -/
def stepOn (B : Bus) (s : BusState B) : BusResult B :=
  match B.load .word s.1.pc s.2 with
  | none => .refused (.stuck (.load .word s.1.pc))
  | some (v, c) => executeOn B (v.setWidth 32) (s.1, c)

end Sys2Proof.Machine
end

