-- ==== Sys2Proof/Machine/Run.lean ====
section
/-! DEFINITION. A run of a program as the host drives it (70_reset_and_hazards.md R254, R255; decision D17, log entry 16). -/

namespace Sys2Proof.Machine

/-- How a run ends: before the step at END_PC, at the end of the step budget, or at the first fault, with the state at that
moment (for a fault, the state before the faulting step); `refused` is a step without an outcome, such as a stuck one. -/
inductive RunEnd (σ φ ρ : Type) where
  | completed (s : σ)
  | unfinished (s : σ)
  | faulted (f : φ) (s : σ)
  | refused (r : ρ) (s : σ)
deriving DecidableEq, Repr

/-- The run loop of R255: END_PC is looked at before the budget, the budget before the step. -/
def runWith {σ φ ρ : Type} (step : σ → Host.Outcome σ φ ρ) (pcOf : σ → Word) (endPc : Word) : Nat → σ → RunEnd σ φ ρ
  | 0, s => if pcOf s = endPc then .completed s else .unfinished s
  | budget + 1, s =>
    if pcOf s = endPc then .completed s
    else
      match step s with
      | .next t => runWith step pcOf endPc budget t
      | .fault f => .faulted f s
      | .refused r => .refused r s

/-- A run on the reference bus. -/
def runFrom (endPc : Word) (budget : Nat) (s : State) : RunEnd State Fault Refusal := runWith step State.pc endPc budget s

/-- A run on the bus `B`, the parameter `BUS` of R255. -/
def runOn (B : Bus) (endPc : Word) (budget : Nat) (s : BusState B) : RunEnd (BusState B) (BusFault B) BusStop :=
  runWith (stepOn B) (fun t => t.1.pc) endPc budget s

/-- The state a run ended in. -/
def RunEnd.state {σ φ ρ : Type} : RunEnd σ φ ρ → σ
  | .completed s => s
  | .unfinished s => s
  | .faulted _ s => s
  | .refused _ s => s

end Sys2Proof.Machine
end

