-- ==== Sys2Proof/Safety.lean ====
section
/-! DEFINITION. What the statements call a good state and a safe run. -/

namespace Sys2Proof.Safety

open Sys2Proof.Machine

/-- The pc is a multiple of 4 (10_state.md R25). -/
abbrev pcAligned (s : State) : Prop := misaligned s.pc = false

/-- The memory is in its one canonical form. -/
abbrev memCanonical (s : State) : Prop := Memory.wf s.mem = true

/-- The model's invariant: both. -/
abbrev GoodState (s : State) : Prop := pcAligned s ∧ memCanonical s

/-- A run is safe when it ends in no fault. -/
def SafeRun (endPc : Word) (budget : Nat) (s : State) : Prop :=
  (∃ t, runFrom endPc budget s = .completed t) ∨ ∃ t, runFrom endPc budget s = .unfinished t

end Sys2Proof.Safety
end

