-- ==== Sys2Proof/Certificates/Slice0/Obligations.lean ====
section
/-! DEFINITION. The statements for the provers. Results are written with integers (`BitVec.ofInt`, `toInt`, `toNat`) so that they
do not repeat the model's own definitions. The helpers under `Sys2Proof.Claims` are the vocabulary of the statements. -/

namespace Sys2Proof.Claims

open Sys2Proof.Machine

/-- The word is the row's instruction exactly when `w & mask = match`, its operands the word's own fields (R85). -/
def RowDecodes (mtch mask : InstrWord) (mk : InstrWord → Instr) : Prop :=
  ∀ w, w &&& mask = mtch ↔ decode w = .ok (mk w)

/-- `exec i s` completes: `x[rd] <- v; pc <- pc + 4` and nothing else changes: no other register, no byte of memory. A write to
register 0 is discarded. -/
def CompletesWriting (i : Instr) (s : State) (rd : RegIdx) (v : Word) : Prop :=
  ∃ t, exec i s = .next t ∧ t.x rd = (if rd = 0 then 0 else v) ∧ (∀ r, r ≠ rd → t.x r = s.x r) ∧
    t.pc = s.pc + 4 ∧ t.mem = s.mem ∧ ∀ a, byteAt t.mem a = byteAt s.mem a

/-- `exec i s` completes, no register and no byte of memory changes, and the pc becomes `p`. -/
def CompletesAt (i : Instr) (s : State) (p : Word) : Prop :=
  ∃ t, exec i s = .next t ∧ (∀ r, t.x r = s.x r) ∧ t.pc = p ∧ t.mem = s.mem ∧ ∀ a, byteAt t.mem a = byteAt s.mem a

/-- `exec i s` completes: no register changes, `pc <- pc + 4`, and the bus performed `MemWrite(a, n, v)`. -/
def CompletesStoring (i : Instr) (s : State) (a : Addr) (n : Nat) (v : BitVec (8 * n)) : Prop :=
  ∃ t, exec i s = .next t ∧ (∀ r, t.x r = s.x r) ∧ t.pc = s.pc + 4 ∧ t.mem = memWrite s.mem a n v

/-- A jump with link to `tgt` (R161): link and pc when the target is aligned, else the fault; no byte of memory changes. -/
def JumpRule (i : Instr) (s : State) (rd : RegIdx) (tgt : Word) : Prop :=
  (tgt.toNat % 4 = 0 → ∃ t, exec i s = .next t ∧ t.x rd = (if rd = 0 then 0 else s.pc + 4) ∧
    (∀ r, r ≠ rd → t.x r = s.x r) ∧ t.pc = tgt ∧ t.mem = s.mem ∧ ∀ a, byteAt t.mem a = byteAt s.mem a) ∧
  (tgt.toNat % 4 ≠ 0 → exec i s = .fault .instructionAddressMisaligned)

/-- `pc + offset` of JAL and the branches, modulo 2^64. -/
def relTarget {n : Nat} (s : State) (off : BitVec n) : Word := BitVec.ofInt 64 (s.pc.toInt + off.toInt)

/-- A conditional branch with condition `c` (R173). -/
def BranchRule (i : Instr) (s : State) (c : Prop) (off : BitVec 13) : Prop :=
  (¬c → CompletesAt i s (s.pc + 4)) ∧
  (c → (relTarget s off).toNat % 4 = 0 → CompletesAt i s (relTarget s off)) ∧
  (c → (relTarget s off).toNat % 4 ≠ 0 → exec i s = .fault .instructionAddressMisaligned)

/-- The value of an I-immediate (R66) as a 64-bit value. -/
def immValue (imm : BitVec 12) : Word := BitVec.ofInt 64 imm.toInt

/-- The effective address `x[rs1] + imm`, modulo 2^64 (R180). -/
def address (s : State) (rs1 : RegIdx) (imm : BitVec 12) : Addr := BitVec.ofInt 64 ((s.x rs1).toInt + imm.toInt)

/-- The target of JALR: the sum with bit 0 cleared. -/
def evenSum (s : State) (rs1 : RegIdx) (imm : BitVec 12) : Word :=
  BitVec.ofNat 64 (2 * ((BitVec.ofInt 64 ((s.x rs1).toInt + imm.toInt)).toNat / 2))

/-- The low word of a register. -/
def low32 (v : Word) : BitVec 32 := BitVec.ofNat 32 v.toNat

/-- A 32-bit result sign-extended to 64 bits (R151). -/
def sext32 (r32 : BitVec 32) : Word := BitVec.ofInt 64 r32.toInt

/-- The word is IllegalInstruction at every state, and nothing is committed. -/
def FaultsIllegal (w : InstrWord) : Prop :=
  ∀ s, execute w s = .fault .illegalInstruction ∧ stateAfter s (execute w s) = s

/-- The selector fields of a word as numbers (R62). -/
def opcodeNum (w : InstrWord) : Nat := w.toNat % 2 ^ 7
def funct3Num (w : InstrWord) : Nat := w.toNat / 2 ^ 12 % 2 ^ 3
def funct7Num (w : InstrWord) : Nat := w.toNat / 2 ^ 25 % 2 ^ 7
def shtype6Num (w : InstrWord) : Nat := w.toNat / 2 ^ 26 % 2 ^ 6

/-- The register an instruction writes (R23's table). -/
def destination : Instr → Option RegIdx
  | .lui rd _ | .auipc rd _ | .jal rd _ => some rd
  | .jalr rd _ _ | .lb rd _ _ | .lh rd _ _ | .lw rd _ _ | .ld rd _ _ | .lbu rd _ _ | .lhu rd _ _ | .lwu rd _ _ => some rd
  | .addi rd _ _ | .slti rd _ _ | .sltiu rd _ _ | .xori rd _ _ | .ori rd _ _ | .andi rd _ _ => some rd
  | .slli rd _ _ | .srli rd _ _ | .srai rd _ _ => some rd
  | .addiw rd _ _ | .slliw rd _ _ | .srliw rd _ _ | .sraiw rd _ _ => some rd
  | .add rd _ _ | .sub rd _ _ | .sll rd _ _ | .slt rd _ _ | .sltu rd _ _ => some rd
  | .xor rd _ _ | .srl rd _ _ | .sra rd _ _ | .or rd _ _ | .and rd _ _ => some rd
  | .addw rd _ _ | .subw rd _ _ | .sllw rd _ _ | .srlw rd _ _ | .sraw rd _ _ => some rd
  | .beq _ _ _ | .bne _ _ _ | .blt _ _ _ | .bge _ _ _ | .bltu _ _ _ | .bgeu _ _ _ => none
  | .sb _ _ _ | .sh _ _ _ | .sw _ _ _ | .sd _ _ _ => none
  | .fence _ _ _ _ _ => none

/-- The registers an instruction reads (R23's table). -/
def sources : Instr → List RegIdx
  | .lui _ _ | .auipc _ _ | .jal _ _ | .fence _ _ _ _ _ => []
  | .jalr _ rs1 _ | .lb _ rs1 _ | .lh _ rs1 _ | .lw _ rs1 _ | .ld _ rs1 _ | .lbu _ rs1 _ | .lhu _ rs1 _ | .lwu _ rs1 _ => [rs1]
  | .addi _ rs1 _ | .slti _ rs1 _ | .sltiu _ rs1 _ | .xori _ rs1 _ | .ori _ rs1 _ | .andi _ rs1 _ => [rs1]
  | .slli _ rs1 _ | .srli _ rs1 _ | .srai _ rs1 _ => [rs1]
  | .addiw _ rs1 _ | .slliw _ rs1 _ | .srliw _ rs1 _ | .sraiw _ rs1 _ => [rs1]
  | .add _ rs1 rs2 | .sub _ rs1 rs2 | .sll _ rs1 rs2 | .slt _ rs1 rs2 | .sltu _ rs1 rs2 => [rs1, rs2]
  | .xor _ rs1 rs2 | .srl _ rs1 rs2 | .sra _ rs1 rs2 | .or _ rs1 rs2 | .and _ rs1 rs2 => [rs1, rs2]
  | .addw _ rs1 rs2 | .subw _ rs1 rs2 | .sllw _ rs1 rs2 | .srlw _ rs1 rs2 | .sraw _ rs1 rs2 => [rs1, rs2]
  | .beq rs1 rs2 _ | .bne rs1 rs2 _ | .blt rs1 rs2 _ | .bge rs1 rs2 _ | .bltu rs1 rs2 _ | .bgeu rs1 rs2 _ => [rs1, rs2]
  | .sb rs1 rs2 _ | .sh rs1 rs2 _ | .sw rs1 rs2 _ | .sd rs1 rs2 _ => [rs1, rs2]

/-- The target a jump or a taken branch is about to commit; none for every other instruction (R27, R29's table). -/
def jumpTarget (s : State) : Instr → Option Word
  | .jal _ off => some (relTarget s off)
  | .jalr _ rs1 imm => some (evenSum s rs1 imm)
  | .beq rs1 rs2 off => if s.x rs1 = s.x rs2 then some (relTarget s off) else none
  | .bne rs1 rs2 off => if s.x rs1 ≠ s.x rs2 then some (relTarget s off) else none
  | .blt rs1 rs2 off => if (s.x rs1).toInt < (s.x rs2).toInt then some (relTarget s off) else none
  | .bge rs1 rs2 off => if (s.x rs2).toInt ≤ (s.x rs1).toInt then some (relTarget s off) else none
  | .bltu rs1 rs2 off => if (s.x rs1).toNat < (s.x rs2).toNat then some (relTarget s off) else none
  | .bgeu rs1 rs2 off => if (s.x rs2).toNat ≤ (s.x rs1).toNat then some (relTarget s off) else none
  | _ => none

/-- R44's table: the bus operation of each instruction; store data with the bits above the width 0. -/
def busOperation (s : State) : Instr → Option BusRequest
  | .lb _ rs1 imm | .lbu _ rs1 imm => some (.load .byte (address s rs1 imm))
  | .lh _ rs1 imm | .lhu _ rs1 imm => some (.load .half (address s rs1 imm))
  | .lw _ rs1 imm | .lwu _ rs1 imm => some (.load .word (address s rs1 imm))
  | .ld _ rs1 imm => some (.load .double (address s rs1 imm))
  | .sb rs1 rs2 imm => some (.store .byte (address s rs1 imm) (BitVec.ofNat 64 ((s.x rs2).toNat % 2 ^ 8)))
  | .sh rs1 rs2 imm => some (.store .half (address s rs1 imm) (BitVec.ofNat 64 ((s.x rs2).toNat % 2 ^ 16)))
  | .sw rs1 rs2 imm => some (.store .word (address s rs1 imm) (BitVec.ofNat 64 ((s.x rs2).toNat % 2 ^ 32)))
  | .sd rs1 rs2 imm => some (.store .double (address s rs1 imm) (s.x rs2))
  | _ => none

/-- The word instructions (R151). -/
def isWordInstr : Instr → Bool
  | .addiw _ _ _ | .slliw _ _ _ | .srliw _ _ _ | .sraiw _ _ _ => true
  | .addw _ _ _ | .subw _ _ _ | .sllw _ _ _ | .srlw _ _ _ | .sraw _ _ _ => true
  | _ => false

/-- The control-transfer instructions (R221). -/
def isControl : Instr → Bool
  | .jal _ _ | .jalr _ _ _ => true
  | .beq _ _ _ | .bne _ _ _ | .blt _ _ _ | .bge _ _ _ | .bltu _ _ _ | .bgeu _ _ _ => true
  | _ => false

/-- The causes of IllegalInstruction, row by row of R220's table. -/
def IllegalCause (w : InstrWord) : Prop :=
  opcodeNum w ∉ [0x03, 0x0F, 0x13, 0x17, 0x1B, 0x23, 0x33, 0x37, 0x3B, 0x63, 0x67, 0x6F] ∨
  (opcodeNum w = 0x13 ∧ (funct3Num w = 1 ∧ shtype6Num w ≠ 0 ∨ funct3Num w = 5 ∧ shtype6Num w ≠ 0 ∧ shtype6Num w ≠ 0x10)) ∨
  (opcodeNum w = 0x33 ∧ ¬(funct7Num w = 0 ∨ funct7Num w = 0x20 ∧ (funct3Num w = 0 ∨ funct3Num w = 5))) ∨
  (opcodeNum w = 0x1B ∧ (funct3Num w ∉ [0, 1, 5] ∨ funct3Num w = 1 ∧ funct7Num w ≠ 0 ∨
    funct3Num w = 5 ∧ funct7Num w ≠ 0 ∧ funct7Num w ≠ 0x20)) ∨
  (opcodeNum w = 0x3B ∧ ¬(funct7Num w = 0 ∧ funct3Num w ∈ [0, 1, 5] ∨ funct7Num w = 0x20 ∧ funct3Num w ∈ [0, 5])) ∨
  (opcodeNum w = 0x63 ∧ (funct3Num w = 2 ∨ funct3Num w = 3)) ∨
  (opcodeNum w = 0x67 ∧ funct3Num w ≠ 0) ∨
  (opcodeNum w = 0x03 ∧ funct3Num w = 7) ∨
  (opcodeNum w = 0x23 ∧ 4 ≤ funct3Num w) ∨
  (opcodeNum w = 0x0F ∧ funct3Num w ≠ 0)

/-- Two outcomes that agree on the block's own side: the pc and every register, or the same fault. -/
def SameBlockOutcome : Result → Result → Prop
  | .next s, .next t => s.pc = t.pc ∧ ∀ r, s.x r = t.x r
  | .fault f, .fault g => f = g
  | _, _ => False

/-- A result on the reference bus as a result of the block on that bus: a fault leaves the bus as it was. -/
def asBusResult (s : State) : Result → BusResult referenceBus
  | .next t => .next (t.block, t.mem)
  | .fault f => .fault (f, s.mem)
  | .refused r => .refused (.refused r)

/-- The end of a run on the reference bus as the end of a run of the block on that bus. -/
def asBusRun : RunEnd State Fault Refusal → RunEnd (BusState referenceBus) (BusFault referenceBus) BusStop
  | .completed s => .completed (s.block, s.mem)
  | .unfinished s => .unfinished (s.block, s.mem)
  | .faulted f s => .faulted (f, s.mem) (s.block, s.mem)
  | .refused r s => .refused (.refused r) (s.block, s.mem)

/-- The effective address on an open bus, modulo 2^64. -/
def addressOn {B : Bus} (s : BusState B) (rs1 : RegIdx) (imm : BitVec 12) : Addr :=
  BitVec.ofInt 64 ((s.1.x rs1).toInt + imm.toInt)

/-- On the bus `B`, `i` is the load of width `w` at `a` into `rd`, its answer converted by `conv`; refused, the step is stuck. -/
def LoadsFrom (B : Bus) (i : Instr) (s : BusState B) (rd : RegIdx) (w : Width) (a : Addr) (conv : Word → Word) : Prop :=
  (∀ v c, B.load w a s.2 = some (v, c) → ∃ b, execOn B i s = .next (b, c) ∧ b.x rd = (if rd = 0 then 0 else conv v) ∧
    (∀ r, r ≠ rd → b.x r = s.1.x r) ∧ b.pc = s.1.pc + 4) ∧
  (B.load w a s.2 = none → execOn B i s = .refused (.stuck (.load w a)))

/-- On the bus `B`, `i` is the store of `d` of width `w` at `a`; refused, the step is stuck. -/
def StoresTo (B : Bus) (i : Instr) (s : BusState B) (w : Width) (a : Addr) (d : Word) : Prop :=
  (∀ c, B.store w a d s.2 = some c → ∃ b, execOn B i s = .next (b, c) ∧ (∀ r, b.x r = s.1.x r) ∧ b.pc = s.1.pc + 4) ∧
  (B.store w a d s.2 = none → execOn B i s = .refused (.stuck (.store w a d)))

/-- The word whose bytes stand at the pc, the byte at the pc lowest. -/
def wordAtPc (s : State) : InstrWord :=
  byteAt s.mem (s.pc + 3) ++ byteAt s.mem (s.pc + 2) ++ byteAt s.mem (s.pc + 1) ++ byteAt s.mem s.pc

end Sys2Proof.Claims

open Sys2Proof Sys2Proof.Machine Sys2Proof.Claims Sys2Proof.Safety

/-! Reset. -/

/-- The first state holds what the loader gave, x0 reads 0, and it meets the invariant when the loader keeps R251's premise and
places a canonical memory; the model's reset is the case of Config.lean. The reset values are the model's choice (log entries 1
to 3). -/
def Obligations.FirstStateIsTheLoaders : Prop :=
  (∀ (initX : Vector Word 31) (initPc : Word) (mem : Memory),
    (State.initial initX initPc mem).x 0 = 0 ∧
    (∀ i : Fin 31, (State.initial initX initPc mem).x i.succ = initX[i]) ∧
    (State.initial initX initPc mem).pc = initPc ∧
    (∀ a, byteAt (State.initial initX initPc mem).mem a = byteAt mem a) ∧
    (initPc.toNat % 4 = 0 → Memory.wf mem = true → GoodState (State.initial initX initPc mem))) ∧
  (∀ r, State.reset.x r = 0) ∧ State.reset.pc = 0 ∧ ∀ a, byteAt State.reset.mem a = 0

/-- The reset state meets the invariant that every step keeps. Its values are the model's choice (log entries 1 to 3). -/
def Obligations.ResetMeetsTheInvariant : Prop :=
  GoodState State.reset ∧ State.reset.pc.toNat % 4 = 0 ∧ ∀ a, byteAt State.reset.mem a = Config.unlistedByte

/-! Registers, pc and the block's ports. -/

/-- R21: register 0 reads as 0, always and after every step; a register write is read back, a write to register 0 is not. -/
def Obligations.RegisterZeroReadsZero : Prop :=
  (∀ s : State, s.x 0 = 0) ∧
  (∀ s t, step s = .next t → t.x 0 = 0) ∧
  (∀ (s : State) (r : RegIdx) (v : Word), (s.setX r v).x 0 = 0 ∧ (r ≠ 0 → (s.setX r v).x r = v) ∧
    ∀ q, q ≠ r → (s.setX r v).x q = s.x q)

/-- Only the destination register is written, and none by a step that faults; and what a step does is a function of the pre-step
values of the registers the spec's port table lists (with the pc and memory), so reads precede the write. The table is the
spec's own inference (10_state.md, section 1). -/
def Obligations.RegisterPortsOfEveryInstruction : Prop :=
  (∀ i s t, exec i s = .next t → ∀ r, destination i ≠ some r → t.x r = s.x r) ∧
  (∀ i s f, exec i s = .fault f → ∀ r, (stateAfter s (exec i s)).x r = s.x r) ∧
  (∀ i s u, s.pc = u.pc → s.mem = u.mem → (∀ r ∈ sources i, s.x r = u.x r) →
    (∃ s' u', exec i s = .next s' ∧ exec i u = .next u' ∧ s'.pc = u'.pc ∧ s'.mem = u'.mem ∧
      ∀ r, destination i = some r → s'.x r = u'.x r) ∨
    ∃ f, exec i s = .fault f ∧ exec i u = .fault f)

/-- R27, R28: the pc after a step is the validated target where a jump or a taken branch set one, else pc + 4; a step that
faults leaves it, and all else, unchanged. -/
def Obligations.PcAdvancesOnceOrJumps : Prop :=
  (∀ i s t, exec i s = .next t → t.pc = (jumpTarget s i).getD (s.pc + 4)) ∧
  (∀ w s f, execute w s = .fault f → (stateAfter s (execute w s)).pc = s.pc ∧ ∀ r, (stateAfter s (execute w s)).x r = s.x r)

/-- R25: the block never commits a target that is not a multiple of 4; so from an aligned pc every step gives an aligned pc, and
an attempted commit of a misaligned target is the fault with the pc unchanged. -/
def Obligations.PcStaysAligned : Prop :=
  (∀ s t, s.pc.toNat % 4 = 0 → step s = .next t → t.pc.toNat % 4 = 0) ∧
  (∀ i s t, exec i s = .next t → t.pc = s.pc + 4 ∨ t.pc.toNat % 4 = 0) ∧
  (∀ i s tgt, jumpTarget s i = some tgt → tgt.toNat % 4 ≠ 0 →
    exec i s = .fault .instructionAddressMisaligned ∧ (stateAfter s (exec i s)).pc = s.pc)

/-! Primitives, fields and immediates. -/

/-- R12 and R13: sign extension and arithmetic right shift are the defined arithmetic, whatever the field width; the source's
shift-up, shift-down recipe gives the same value. -/
def Obligations.PrimitivesAreDefinedArithmetic : Prop :=
  (∀ (n : Nat) (v : BitVec n), 0 < n → n ≤ 64 →
    sext v = BitVec.ofInt 64 ((v.toNat : Int) - if v.getLsbD (n - 1) then 2 ^ n else 0) ∧
    sext v = ((BitVec.ofNat 64 v.toNat) <<< (64 - n)).sshiftRight (64 - n)) ∧
  (∀ (a : Word) (k : Nat), k < 64 → shiftRightArith a k = BitVec.ofInt 64 (a.toInt / 2 ^ k) ∧
    ∀ j < 64, (shiftRightArith a k).getLsbD j = if j + k < 64 then a.getLsbD (j + k) else a.getLsbD 63) ∧
  (∀ (a : BitVec 32) (k : Nat), k < 32 → shiftRightArith a k = BitVec.ofInt 32 (a.toInt / 2 ^ k) ∧
    ∀ j < 32, (shiftRightArith a k).getLsbD j = if j + k < 32 then a.getLsbD (j + k) else a.getLsbD 31)

/-- R62: the six fixed fields stand at the same bits of every word. -/
def Obligations.FixedFieldsStandAtTheirBits : Prop :=
  ∀ w : InstrWord,
    (opcodeOf w).toNat = w.toNat % 2 ^ 7 ∧ (rdOf w).val = w.toNat / 2 ^ 7 % 2 ^ 5 ∧
    (funct3Of w).toNat = w.toNat / 2 ^ 12 % 2 ^ 3 ∧ (rs1Of w).val = w.toNat / 2 ^ 15 % 2 ^ 5 ∧
    (rs2Of w).val = w.toNat / 2 ^ 20 % 2 ^ 5 ∧ (funct7Of w).toNat = w.toNat / 2 ^ 25 % 2 ^ 7

/-- R66 to R70: the five immediates, bit by bit, on every word, with their ranges. -/
def Obligations.ImmediatesGatherTheirBits : Prop :=
  ∀ w : InstrWord,
    (∀ j < 64, (immI w).getLsbD j = if j < 12 then w.getLsbD (20 + j) else w.getLsbD 31) ∧
    (∀ j < 64, (immS w).getLsbD j =
      if j < 5 then w.getLsbD (7 + j) else if j < 12 then w.getLsbD (20 + j) else w.getLsbD 31) ∧
    (∀ j < 64, (immB w).getLsbD j =
      if j = 0 then false else if j < 5 then w.getLsbD (7 + j) else if j < 11 then w.getLsbD (20 + j)
      else if j = 11 then w.getLsbD 7 else w.getLsbD 31) ∧
    (∀ j < 64, (immU w).getLsbD j = if j < 12 then false else if j < 32 then w.getLsbD j else w.getLsbD 31) ∧
    (∀ j < 64, (immJ w).getLsbD j =
      if j = 0 then false else if j < 11 then w.getLsbD (20 + j) else if j = 11 then w.getLsbD 20
      else if j < 20 then w.getLsbD j else w.getLsbD 31) ∧
    (-2048 ≤ (immI w).toInt ∧ (immI w).toInt ≤ 2047) ∧ (-2048 ≤ (immS w).toInt ∧ (immS w).toInt ≤ 2047) ∧
    (-4096 ≤ (immB w).toInt ∧ (immB w).toInt ≤ 4094) ∧
    (-2147483648 ≤ (immU w).toInt ∧ (immU w).toInt ≤ 2147479552 ∧ (immU w).toInt % 4096 = 0) ∧
    (-1048576 ≤ (immJ w).toInt ∧ (immJ w).toInt ≤ 1048574)

/-- R72: for a value in range, a word decodes to it exactly when the word's immediate bits are the ones the encoder places. -/
def Obligations.ImmediatesRoundTrip : Prop :=
  ∀ (w : InstrWord) (v : Word),
    (-2048 ≤ v.toInt ∧ v.toInt ≤ 2047 → (immI w = v ↔ w.extractLsb' 20 12 = v.extractLsb' 0 12)) ∧
    (-2048 ≤ v.toInt ∧ v.toInt ≤ 2047 →
      (immS w = v ↔ w.extractLsb' 25 7 = v.extractLsb' 5 7 ∧ w.extractLsb' 7 5 = v.extractLsb' 0 5)) ∧
    (-4096 ≤ v.toInt ∧ v.toInt ≤ 4094 ∧ v.toInt % 2 = 0 →
      (immB w = v ↔ w.extractLsb' 31 1 = v.extractLsb' 12 1 ∧ w.extractLsb' 25 6 = v.extractLsb' 5 6 ∧
        w.extractLsb' 8 4 = v.extractLsb' 1 4 ∧ w.extractLsb' 7 1 = v.extractLsb' 11 1)) ∧
    (-2147483648 ≤ v.toInt ∧ v.toInt ≤ 2147479552 ∧ v.toInt % 4096 = 0 →
      (immU w = v ↔ w.extractLsb' 12 20 = v.extractLsb' 12 20)) ∧
    (-1048576 ≤ v.toInt ∧ v.toInt ≤ 1048574 ∧ v.toInt % 2 = 0 →
      (immJ w = v ↔ w.extractLsb' 31 1 = v.extractLsb' 20 1 ∧ w.extractLsb' 21 10 = v.extractLsb' 1 10 ∧
        w.extractLsb' 20 1 = v.extractLsb' 11 1 ∧ w.extractLsb' 12 8 = v.extractLsb' 12 8))

/-! Encoding. -/

/-- Decoding the encoding of any of the 50 instructions, with every operand at every value its encoding admits, gives it back;
so it does from the four bytes in memory order. -/
def Obligations.EncodeThenDecodeGivesTheInstructionBack : Prop :=
  ∀ i : Instr, i.wellFormed = true →
    decode (encode i) = .ok i ∧ decodeBytes (wordBytes (encode i)) = .ok (i, []) ∧
    decodeTableWord 32 (encode i).toNat = some i

/-- The other direction: whatever decodes is well-formed and encodes back to the very word, so each word has one meaning and no
bit of it is dropped. -/
def Obligations.DecodedWordsReencodeToThemselves : Prop :=
  ∀ w i, decode w = .ok i → i.wellFormed = true ∧ encode i = w

/-- The decoder agrees with the opcode table: 50 rows, pairwise disjoint; a word matches a row exactly when it decodes to that
row's instruction, and a word that matches none is IllegalInstruction. The spec marks this rule as derived. -/
def Obligations.DecoderAgreesWithOpcodeTable : Prop :=
  opcodeTable.length = 50 ∧
  (∀ p ∈ opcodeTable, ∀ w : InstrWord, w &&& p.2.2 = p.2.1 ↔ ∃ i, decode w = .ok i ∧ i.mnemonic = p.1) ∧
  (∀ p ∈ opcodeTable, ∀ q ∈ opcodeTable, ∀ w : InstrWord, w &&& p.2.2 = p.2.1 → w &&& q.2.2 = q.2.1 → p = q) ∧
  (∀ w : InstrWord, (∀ p ∈ opcodeTable, w &&& p.2.2 ≠ p.2.1) ↔ FaultsIllegal w)

/-- A word of each family, written out field by field from the spec's encodings (formats of R65, selectors of R73 to R81),
decodes to the instruction it stands for. -/
def Obligations.WordsWrittenOutDecode : Prop :=
  decode (0b000000101010#12 ++ 0b00000#5 ++ 0b000#3 ++ 0b00101#5 ++ 0b0010011#7) = .ok (.addi 5 0 42) ∧
  decode (0b010000#6 ++ 0b000100#6 ++ 0b00001#5 ++ 0b101#3 ++ 0b00010#5 ++ 0b0010011#7) = .ok (.srai 2 1 4) ∧
  decode (0b0100000#7 ++ 0b00010#5 ++ 0b00001#5 ++ 0b000#3 ++ 0b00011#5 ++ 0b0110011#7) = .ok (.sub 3 1 2) ∧
  decode (0b0100000#7 ++ 0b11111#5 ++ 0b00001#5 ++ 0b101#3 ++ 0b00011#5 ++ 0b0011011#7) = .ok (.sraiw 3 1 31) ∧
  decode (0b0#1 ++ 0b0010000000#10 ++ 0b0#1 ++ 0b00000000#8 ++ 0b00001#5 ++ 0b1101111#7) = .ok (.jal 1 0x100) ∧
  decode (0b1#1 ++ 0b111111#6 ++ 0b00000#5 ++ 0b00000#5 ++ 0b000#3 ++ 0b1000#4 ++ 0b1#1 ++ 0b1100011#7) = .ok (.beq 0 0 (-16)) ∧
  decode (0b111111111000#12 ++ 0b00001#5 ++ 0b011#3 ++ 0b00011#5 ++ 0b0000011#7) = .ok (.ld 3 1 (-8)) ∧
  decode (0b1111111#7 ++ 0b00010#5 ++ 0b00001#5 ++ 0b010#3 ++ 0b11100#5 ++ 0b0100011#7) = .ok (.sw 1 2 (-4)) ∧
  decode (0b00010010001101000101#20 ++ 0b00101#5 ++ 0b0110111#7) = .ok (.lui 5 0x12345) ∧
  decode (0b0000#4 ++ 0b1111#4 ++ 0b1111#4 ++ 0b00000#5 ++ 0b000#3 ++ 0b00000#5 ++ 0b0001111#7) = .ok (.fence 0 15 15 0 0)

/-! OP-IMM and OP. -/

/-- R100 to R105: result, frame and completion of ADDI, SLTI, SLTIU, XORI, ORI, ANDI for every operand, and their encodings.
The selector values are the spec's decision D4, the wrap-around D3 (log entries 10 and 14). -/
def Obligations.OpImmArithmeticWritesItsResult : Prop :=
  (∀ (rd rs1 : RegIdx) (imm : BitVec 12) (s : State),
    CompletesWriting (.addi rd rs1 imm) s rd (BitVec.ofInt 64 ((s.x rs1).toInt + imm.toInt)) ∧
    CompletesWriting (.slti rd rs1 imm) s rd (if (s.x rs1).toInt < imm.toInt then 1 else 0) ∧
    CompletesWriting (.sltiu rd rs1 imm) s rd (if (s.x rs1).toNat < (immValue imm).toNat then 1 else 0) ∧
    CompletesWriting (.xori rd rs1 imm) s rd (s.x rs1 ^^^ immValue imm) ∧
    CompletesWriting (.ori rd rs1 imm) s rd (s.x rs1 ||| immValue imm) ∧
    CompletesWriting (.andi rd rs1 imm) s rd (s.x rs1 &&& immValue imm)) ∧
  RowDecodes 0x00000013#32 0x0000707F#32 (fun w => .addi (rdOf w) (rs1Of w) (gatherI w)) ∧
  RowDecodes 0x00002013#32 0x0000707F#32 (fun w => .slti (rdOf w) (rs1Of w) (gatherI w)) ∧
  RowDecodes 0x00003013#32 0x0000707F#32 (fun w => .sltiu (rdOf w) (rs1Of w) (gatherI w)) ∧
  RowDecodes 0x00004013#32 0x0000707F#32 (fun w => .xori (rdOf w) (rs1Of w) (gatherI w)) ∧
  RowDecodes 0x00006013#32 0x0000707F#32 (fun w => .ori (rdOf w) (rs1Of w) (gatherI w)) ∧
  RowDecodes 0x00007013#32 0x0000707F#32 (fun w => .andi (rdOf w) (rs1Of w) (gatherI w))

/-- R106 to R109, R111: SLLI, SRLI, SRAI by every amount 0 to 63, their encodings, and the illegal shift-type bits.
The selector values are the spec's decision D4 (log entry 10). -/
def Obligations.OpImmShiftsWriteTheirResult : Prop :=
  (∀ (rd rs1 : RegIdx) (shamt : BitVec 6) (s : State),
    CompletesWriting (.slli rd rs1 shamt) s rd (BitVec.ofNat 64 ((s.x rs1).toNat * 2 ^ shamt.toNat)) ∧
    CompletesWriting (.srli rd rs1 shamt) s rd (BitVec.ofNat 64 ((s.x rs1).toNat / 2 ^ shamt.toNat)) ∧
    CompletesWriting (.srai rd rs1 shamt) s rd (BitVec.ofInt 64 ((s.x rs1).toInt / 2 ^ shamt.toNat))) ∧
  RowDecodes 0x00001013#32 0xFC00707F#32 (fun w => .slli (rdOf w) (rs1Of w) (w.extractLsb' 20 6)) ∧
  RowDecodes 0x00005013#32 0xFC00707F#32 (fun w => .srli (rdOf w) (rs1Of w) (w.extractLsb' 20 6)) ∧
  RowDecodes 0x40005013#32 0xFC00707F#32 (fun w => .srai (rdOf w) (rs1Of w) (w.extractLsb' 20 6)) ∧
  (∀ w, opcodeNum w = 0x13 → funct3Num w = 1 → shtype6Num w ≠ 0 → FaultsIllegal w) ∧
  (∀ w, opcodeNum w = 0x13 → funct3Num w = 5 → shtype6Num w ≠ 0 → shtype6Num w ≠ 0x10 → FaultsIllegal w)

/-- R120, R121, R123 to R125, R128, R129: result, frame and completion of ADD, SUB, SLT, SLTU, XOR, OR, AND, and their
encodings. The selector values are the spec's decision D4, the wrap-around D3 (log entries 10 and 14). -/
def Obligations.OpArithmeticWritesItsResult : Prop :=
  (∀ (rd rs1 rs2 : RegIdx) (s : State),
    CompletesWriting (.add rd rs1 rs2) s rd (BitVec.ofInt 64 ((s.x rs1).toInt + (s.x rs2).toInt)) ∧
    CompletesWriting (.sub rd rs1 rs2) s rd (BitVec.ofInt 64 ((s.x rs1).toInt - (s.x rs2).toInt)) ∧
    CompletesWriting (.slt rd rs1 rs2) s rd (if (s.x rs1).toInt < (s.x rs2).toInt then 1 else 0) ∧
    CompletesWriting (.sltu rd rs1 rs2) s rd (if (s.x rs1).toNat < (s.x rs2).toNat then 1 else 0) ∧
    CompletesWriting (.xor rd rs1 rs2) s rd (s.x rs1 ^^^ s.x rs2) ∧
    CompletesWriting (.or rd rs1 rs2) s rd (s.x rs1 ||| s.x rs2) ∧
    CompletesWriting (.and rd rs1 rs2) s rd (s.x rs1 &&& s.x rs2)) ∧
  RowDecodes 0x00000033#32 0xFE00707F#32 (fun w => .add (rdOf w) (rs1Of w) (rs2Of w)) ∧
  RowDecodes 0x40000033#32 0xFE00707F#32 (fun w => .sub (rdOf w) (rs1Of w) (rs2Of w)) ∧
  RowDecodes 0x00002033#32 0xFE00707F#32 (fun w => .slt (rdOf w) (rs1Of w) (rs2Of w)) ∧
  RowDecodes 0x00003033#32 0xFE00707F#32 (fun w => .sltu (rdOf w) (rs1Of w) (rs2Of w)) ∧
  RowDecodes 0x00004033#32 0xFE00707F#32 (fun w => .xor (rdOf w) (rs1Of w) (rs2Of w)) ∧
  RowDecodes 0x00006033#32 0xFE00707F#32 (fun w => .or (rdOf w) (rs1Of w) (rs2Of w)) ∧
  RowDecodes 0x00007033#32 0xFE00707F#32 (fun w => .and (rdOf w) (rs1Of w) (rs2Of w))

/-- R122, R126, R127, R131: SLL, SRL, SRA by the low 6 bits of x[rs2], and their encodings.
The selector values are the spec's decision D4 (log entry 10). -/
def Obligations.OpShiftsWriteTheirResult : Prop :=
  (∀ (rd rs1 rs2 : RegIdx) (s : State),
    CompletesWriting (.sll rd rs1 rs2) s rd (BitVec.ofNat 64 ((s.x rs1).toNat * 2 ^ ((s.x rs2).toNat % 64))) ∧
    CompletesWriting (.srl rd rs1 rs2) s rd (BitVec.ofNat 64 ((s.x rs1).toNat / 2 ^ ((s.x rs2).toNat % 64))) ∧
    CompletesWriting (.sra rd rs1 rs2) s rd (BitVec.ofInt 64 ((s.x rs1).toInt / 2 ^ ((s.x rs2).toNat % 64)))) ∧
  RowDecodes 0x00001033#32 0xFE00707F#32 (fun w => .sll (rdOf w) (rs1Of w) (rs2Of w)) ∧
  RowDecodes 0x00005033#32 0xFE00707F#32 (fun w => .srl (rdOf w) (rs1Of w) (rs2Of w)) ∧
  RowDecodes 0x40005033#32 0xFE00707F#32 (fun w => .sra (rdOf w) (rs1Of w) (rs2Of w))

/-- R132, R150: with opcode 0x33 or 0x3B, every (funct3, funct7) pair that selects nothing is IllegalInstruction, all seven bits
of funct7 compared. The selector values are the spec's decision D4 (log entry 10). -/
def Obligations.UnmatchedFunctPairsFault : Prop :=
  (∀ w, opcodeNum w = 0x33 → funct7Num w ≠ 0 → funct7Num w ≠ 0x20 → FaultsIllegal w) ∧
  (∀ w, opcodeNum w = 0x33 → funct7Num w = 0x20 → funct3Num w ∈ [1, 2, 3, 4, 6, 7] → FaultsIllegal w) ∧
  (∀ w, opcodeNum w = 0x3B → funct3Num w ∈ [2, 3, 4, 6, 7] → FaultsIllegal w) ∧
  (∀ w, opcodeNum w = 0x3B → funct3Num w = 1 → funct7Num w ≠ 0 → FaultsIllegal w) ∧
  (∀ w, opcodeNum w = 0x3B → funct3Num w = 0 ∨ funct3Num w = 5 → funct7Num w ≠ 0 → funct7Num w ≠ 0x20 → FaultsIllegal w)

/-! The word instructions. -/

/-- R140 to R143: ADDIW, SLLIW, SRLIW, SRAIW: the 32-bit result, sign-extended; frame, completion and encodings.
The selector values are the spec's decision D4, the wrap-around D3 (log entries 10 and 14). -/
def Obligations.OpImm32WritesItsResult : Prop :=
  (∀ (rd rs1 : RegIdx) (imm : BitVec 12) (s : State),
    CompletesWriting (.addiw rd rs1 imm) s rd (sext32 (BitVec.ofInt 32 ((s.x rs1).toInt + imm.toInt)))) ∧
  (∀ (rd rs1 : RegIdx) (shamt : BitVec 5) (s : State),
    CompletesWriting (.slliw rd rs1 shamt) s rd (sext32 (BitVec.ofNat 32 ((low32 (s.x rs1)).toNat * 2 ^ shamt.toNat))) ∧
    CompletesWriting (.srliw rd rs1 shamt) s rd (sext32 (BitVec.ofNat 32 ((low32 (s.x rs1)).toNat / 2 ^ shamt.toNat))) ∧
    CompletesWriting (.sraiw rd rs1 shamt) s rd (sext32 (BitVec.ofInt 32 ((low32 (s.x rs1)).toInt / 2 ^ shamt.toNat)))) ∧
  RowDecodes 0x0000001B#32 0x0000707F#32 (fun w => .addiw (rdOf w) (rs1Of w) (gatherI w)) ∧
  RowDecodes 0x0000101B#32 0xFE00707F#32 (fun w => .slliw (rdOf w) (rs1Of w) (w.extractLsb' 20 5)) ∧
  RowDecodes 0x0000501B#32 0xFE00707F#32 (fun w => .srliw (rdOf w) (rs1Of w) (w.extractLsb' 20 5)) ∧
  RowDecodes 0x4000501B#32 0xFE00707F#32 (fun w => .sraiw (rdOf w) (rs1Of w) (w.extractLsb' 20 5))

/-- R145 to R149: ADDW, SUBW, SLLW, SRLW, SRAW: the 32-bit result, sign-extended, shifts by the low 5 bits of x[rs2]; frame,
completion and encodings. The selector values are the spec's decision D4, the wrap-around D3 (log entries 10 and 14). -/
def Obligations.Op32WritesItsResult : Prop :=
  (∀ (rd rs1 rs2 : RegIdx) (s : State),
    CompletesWriting (.addw rd rs1 rs2) s rd (sext32 (BitVec.ofInt 32 ((s.x rs1).toInt + (s.x rs2).toInt))) ∧
    CompletesWriting (.subw rd rs1 rs2) s rd (sext32 (BitVec.ofInt 32 ((s.x rs1).toInt - (s.x rs2).toInt))) ∧
    CompletesWriting (.sllw rd rs1 rs2) s rd
      (sext32 (BitVec.ofNat 32 ((low32 (s.x rs1)).toNat * 2 ^ ((s.x rs2).toNat % 32)))) ∧
    CompletesWriting (.srlw rd rs1 rs2) s rd
      (sext32 (BitVec.ofNat 32 ((low32 (s.x rs1)).toNat / 2 ^ ((s.x rs2).toNat % 32)))) ∧
    CompletesWriting (.sraw rd rs1 rs2) s rd
      (sext32 (BitVec.ofInt 32 ((low32 (s.x rs1)).toInt / 2 ^ ((s.x rs2).toNat % 32))))) ∧
  RowDecodes 0x0000003B#32 0xFE00707F#32 (fun w => .addw (rdOf w) (rs1Of w) (rs2Of w)) ∧
  RowDecodes 0x4000003B#32 0xFE00707F#32 (fun w => .subw (rdOf w) (rs1Of w) (rs2Of w)) ∧
  RowDecodes 0x0000103B#32 0xFE00707F#32 (fun w => .sllw (rdOf w) (rs1Of w) (rs2Of w)) ∧
  RowDecodes 0x0000503B#32 0xFE00707F#32 (fun w => .srlw (rdOf w) (rs1Of w) (rs2Of w)) ∧
  RowDecodes 0x4000503B#32 0xFE00707F#32 (fun w => .sraw (rdOf w) (rs1Of w) (rs2Of w))

/-- R151: bits 63 to 32 of a word instruction's destination are copies of bit 31 of the result, the logical right shift
included, and bits 63 to 32 of the source registers have no effect. -/
def Obligations.WordResultsAreSignExtended : Prop :=
  (∀ i s rd, isWordInstr i = true → destination i = some rd → rd ≠ 0 →
    ∃ t, exec i s = .next t ∧ ∀ j, 32 ≤ j → j < 64 → (t.x rd).getLsbD j = (t.x rd).getLsbD 31) ∧
  (∀ i s u rd, isWordInstr i = true → destination i = some rd →
    (∀ r ∈ sources i, low32 (s.x r) = low32 (u.x r)) →
    ∃ s' u', exec i s = .next s' ∧ exec i u = .next u' ∧ s'.x rd = u'.x rd)

/-! Control transfer. -/

/-- R161: JAL links and jumps when its target is aligned and otherwise faults with nothing written; from an aligned pc that is
exactly when bit 1 of the offset is 1; its encoding. The selector values are the spec's decision D4, the wrap-around D3 (log entries 10 and 14). -/
def Obligations.JalLinksAndJumps : Prop :=
  (∀ (rd : RegIdx) (off : BitVec 21) (s : State), JumpRule (.jal rd off) s rd (relTarget s off)) ∧
  (∀ (rd : RegIdx) (off : BitVec 21) (s : State), evenOffset off = true → s.pc.toNat % 4 = 0 →
    (exec (.jal rd off) s = .fault .instructionAddressMisaligned ↔ off.getLsbD 1 = true)) ∧
  RowDecodes 0x0000006F#32 0x0000007F#32 (fun w => .jal (rdOf w) (gatherJ w))

/-- JALR: target `(x[rs1] + imm_I) & ~1`, from the old register where rd = rs1; link, jump or fault like JAL; its encoding with
funct3 000 only (43_control_flow.md, Jumps; decision D8 of the spec). -/
def Obligations.JalrLinksAndJumps : Prop :=
  (∀ (rd rs1 : RegIdx) (imm : BitVec 12) (s : State), JumpRule (.jalr rd rs1 imm) s rd (evenSum s rs1 imm)) ∧
  RowDecodes 0x00000067#32 0x0000707F#32 (fun w => .jalr (rdOf w) (rs1Of w) (gatherI w))

/-- R163 to R168, R173: the six branches: fall through when the condition is false whatever the offset, jump when it is true and
the target aligned, fault when it is true and the target misaligned; no register or memory changes; their encodings.
The selector values are the spec's decision D4, the wrap-around D3 (log entries 10 and 14). -/
def Obligations.BranchesTakeOrFallThrough : Prop :=
  (∀ (rs1 rs2 : RegIdx) (off : BitVec 13) (s : State),
    BranchRule (.beq rs1 rs2 off) s (s.x rs1 = s.x rs2) off ∧
    BranchRule (.bne rs1 rs2 off) s (s.x rs1 ≠ s.x rs2) off ∧
    BranchRule (.blt rs1 rs2 off) s ((s.x rs1).toInt < (s.x rs2).toInt) off ∧
    BranchRule (.bge rs1 rs2 off) s (¬(s.x rs1).toInt < (s.x rs2).toInt) off ∧
    BranchRule (.bltu rs1 rs2 off) s ((s.x rs1).toNat < (s.x rs2).toNat) off ∧
    BranchRule (.bgeu rs1 rs2 off) s (¬(s.x rs1).toNat < (s.x rs2).toNat) off) ∧
  RowDecodes 0x00000063#32 0x0000707F#32 (fun w => .beq (rs1Of w) (rs2Of w) (gatherB w)) ∧
  RowDecodes 0x00001063#32 0x0000707F#32 (fun w => .bne (rs1Of w) (rs2Of w) (gatherB w)) ∧
  RowDecodes 0x00004063#32 0x0000707F#32 (fun w => .blt (rs1Of w) (rs2Of w) (gatherB w)) ∧
  RowDecodes 0x00005063#32 0x0000707F#32 (fun w => .bge (rs1Of w) (rs2Of w) (gatherB w)) ∧
  RowDecodes 0x00006063#32 0x0000707F#32 (fun w => .bltu (rs1Of w) (rs2Of w) (gatherB w)) ∧
  RowDecodes 0x00007063#32 0x0000707F#32 (fun w => .bgeu (rs1Of w) (rs2Of w) (gatherB w))

/-- R169, R194: undefined funct3 values of BRANCH, LOAD and STORE are IllegalInstruction, whatever the rest of the word and the
state. The selector values are the spec's decision D4 (log entry 10). -/
def Obligations.UndefinedFunct3Faults : Prop :=
  (∀ w, opcodeNum w = 0x63 → funct3Num w = 2 ∨ funct3Num w = 3 → FaultsIllegal w) ∧
  (∀ w, opcodeNum w = 0x03 → funct3Num w = 7 → FaultsIllegal w) ∧
  (∀ w, opcodeNum w = 0x23 → 4 ≤ funct3Num w → FaultsIllegal w)

/-- From an aligned pc, bit 1 alone decides whether a target is misaligned: of a JAL word bit 21, of the word of a taken branch
bit 8, of a JALR the sum's bit 1. The spec's own inference (43_control_flow.md, Family rules); the two bit numbers are those of the
immediates' layout, where the inference prints others (log entry 18). -/
def Obligations.BitOneDecidesTheAlignment : Prop :=
  ∀ (w : InstrWord) (s : State), s.pc.toNat % 4 = 0 →
    (opcodeNum w = 0x6F → (execute w s = .fault .instructionAddressMisaligned ↔ w.getLsbD 21 = true)) ∧
    (∀ i, decode w = .ok i → opcodeNum w = 0x63 →
      (execute w s = .fault .instructionAddressMisaligned ↔ (jumpTarget s i).isSome = true ∧ w.getLsbD 8 = true)) ∧
    (opcodeNum w = 0x67 → funct3Num w = 0 → (execute w s = .fault .instructionAddressMisaligned ↔
      (BitVec.ofInt 64 ((s.x (rs1Of w)).toInt + (immI w).toInt)).getLsbD 1 = true))

/-! Loads and stores. -/

/-- R181, R183 to R189: the seven loads at every address: `x[rd]` becomes the converted answer of the bus load, nothing else
changes; their encodings. The selector values are the spec's decision D4, the wrap-around D3 (log entries 10 and 14).
The bus is the reference bus (decision D12, log entry 4). -/
def Obligations.LoadsWriteTheConvertedAnswer : Prop :=
  (∀ (rd rs1 : RegIdx) (imm : BitVec 12) (s : State),
    CompletesWriting (.lb rd rs1 imm) s rd (BitVec.ofInt 64 (memRead s.mem (address s rs1 imm) 1).toInt) ∧
    CompletesWriting (.lh rd rs1 imm) s rd (BitVec.ofInt 64 (memRead s.mem (address s rs1 imm) 2).toInt) ∧
    CompletesWriting (.lw rd rs1 imm) s rd (BitVec.ofInt 64 (memRead s.mem (address s rs1 imm) 4).toInt) ∧
    CompletesWriting (.ld rd rs1 imm) s rd (memRead s.mem (address s rs1 imm) 8) ∧
    CompletesWriting (.lbu rd rs1 imm) s rd (BitVec.ofNat 64 (memRead s.mem (address s rs1 imm) 1).toNat) ∧
    CompletesWriting (.lhu rd rs1 imm) s rd (BitVec.ofNat 64 (memRead s.mem (address s rs1 imm) 2).toNat) ∧
    CompletesWriting (.lwu rd rs1 imm) s rd (BitVec.ofNat 64 (memRead s.mem (address s rs1 imm) 4).toNat)) ∧
  RowDecodes 0x00000003#32 0x0000707F#32 (fun w => .lb (rdOf w) (rs1Of w) (gatherI w)) ∧
  RowDecodes 0x00001003#32 0x0000707F#32 (fun w => .lh (rdOf w) (rs1Of w) (gatherI w)) ∧
  RowDecodes 0x00002003#32 0x0000707F#32 (fun w => .lw (rdOf w) (rs1Of w) (gatherI w)) ∧
  RowDecodes 0x00003003#32 0x0000707F#32 (fun w => .ld (rdOf w) (rs1Of w) (gatherI w)) ∧
  RowDecodes 0x00004003#32 0x0000707F#32 (fun w => .lbu (rdOf w) (rs1Of w) (gatherI w)) ∧
  RowDecodes 0x00005003#32 0x0000707F#32 (fun w => .lhu (rdOf w) (rs1Of w) (gatherI w)) ∧
  RowDecodes 0x00006003#32 0x0000707F#32 (fun w => .lwu (rdOf w) (rs1Of w) (gatherI w))

/-- R182, R190 to R193: the four stores at every address: one `MemWrite` of the register's low bits, no register changes,
pc + 4; their encodings. The selector values are the spec's decision D4, the wrap-around D3 (log entries 10 and 14).
The bus is the reference bus (decision D12, log entry 4). -/
def Obligations.StoresIssueTheTruncatedData : Prop :=
  (∀ (rs1 rs2 : RegIdx) (imm : BitVec 12) (s : State),
    CompletesStoring (.sb rs1 rs2 imm) s (address s rs1 imm) 1 (BitVec.ofNat 8 (s.x rs2).toNat) ∧
    CompletesStoring (.sh rs1 rs2 imm) s (address s rs1 imm) 2 (BitVec.ofNat 16 (s.x rs2).toNat) ∧
    CompletesStoring (.sw rs1 rs2 imm) s (address s rs1 imm) 4 (BitVec.ofNat 32 (s.x rs2).toNat) ∧
    CompletesStoring (.sd rs1 rs2 imm) s (address s rs1 imm) 8 (s.x rs2)) ∧
  RowDecodes 0x00000023#32 0x0000707F#32 (fun w => .sb (rs1Of w) (rs2Of w) (gatherS w)) ∧
  RowDecodes 0x00001023#32 0x0000707F#32 (fun w => .sh (rs1Of w) (rs2Of w) (gatherS w)) ∧
  RowDecodes 0x00002023#32 0x0000707F#32 (fun w => .sw (rs1Of w) (rs2Of w) (gatherS w)) ∧
  RowDecodes 0x00003023#32 0x0000707F#32 (fun w => .sd (rs1Of w) (rs2Of w) (gatherS w))

/-- The stores' frame over memory, by the model's own effective address: the bytes stored are the register's, lowest first, and
every address outside them reads as before. The byte order and the bus's contents are the spec's decisions D1 and D12 (log
entries 4 and 5). -/
def Obligations.StoresChangeOnlyTheirBytes : Prop :=
  ∀ (rs1 rs2 : RegIdx) (imm : BitVec 12) (s : State) (a : Addr), effectiveAddress s rs1 imm = a →
    ∀ p ∈ [(Instr.sb rs1 rs2 imm, 1), (Instr.sh rs1 rs2 imm, 2), (Instr.sw rs1 rs2 imm, 4), (Instr.sd rs1 rs2 imm, 8)],
      ∃ t, exec p.1 s = .next t ∧
        (∀ k < p.2, byteAt t.mem (a + BitVec.ofNat 64 k) = (s.x rs2).extractLsb' (8 * k) 8) ∧
        (∀ b, (∀ k < p.2, b ≠ a + BitVec.ofNat 64 k) → byteAt t.mem b = byteAt s.mem b) ∧
        (∀ r, t.x r = s.x r) ∧ t.pc = s.pc + 4

/-- The reference bus is little-endian, in numbers, for every width, address and content, alignment disregarded and addresses
modulo 2^64; with the spec's mixed-width example. The spec's decisions D1 and D12 (log entries 4 and 5). -/
def Obligations.BusIsLittleEndian : Prop :=
  (∀ (m : Memory) (a : Addr) (n : Nat), n ≤ 8 → ∀ k < n,
    (memRead m a n).toNat / 256 ^ k % 256 = (byteAt m (a + BitVec.ofNat 64 k)).toNat) ∧
  (∀ (m : Memory) (a : Addr) (n : Nat) (v : BitVec (8 * n)), n ≤ 8 →
    (∀ k < n, (byteAt (memWrite m a n v) (a + BitVec.ofNat 64 k)).toNat = v.toNat / 256 ^ k % 256) ∧
    ∀ b, (∀ k < n, b ≠ a + BitVec.ofNat 64 k) → byteAt (memWrite m a n v) b = byteAt m b) ∧
  (∀ (m : Memory) (a : Addr),
    memRead (memWrite m a 4 0x11223344#32) a 1 = 0x44#8 ∧ memRead (memWrite m a 4 0x11223344#32) (a + 1) 1 = 0x33#8 ∧
    memRead (memWrite m a 4 0x11223344#32) (a + 2) 2 = 0x1122#16)

/-- A doubleword stored and then loaded from the same address comes back, also where the load's base register and offset are
others (20_memory.md, Ordering; on the reference bus, decision D12, log entry 4). -/
def Obligations.StoreThenLoadReturnsTheValue : Prop :=
  ∀ (rs1 rs2 rd base : RegIdx) (imm off : BitVec 12) (s t : State), rd ≠ 0 →
    exec (.sd rs1 rs2 imm) s = .next t → effectiveAddress t base off = effectiveAddress s rs1 imm →
    ∃ u, exec (.ld rd base off) t = .next u ∧ u.x rd = s.x rs2

/-! LUI, AUIPC, FENCE and the encodings the spec decided illegal. -/

/-- LUI and AUIPC: `imm20 * 4096` sign-extended, and the same added to the pc of the instruction; frame, completion, encodings
(45_upper_immediate.md; decision D5 of the spec). -/
def Obligations.UpperImmediatesWriteTheirResult : Prop :=
  (∀ (rd : RegIdx) (imm20 : BitVec 20) (s : State),
    CompletesWriting (.lui rd imm20) s rd (BitVec.ofInt 64 (imm20.toInt * 4096)) ∧
    CompletesWriting (.auipc rd imm20) s rd (BitVec.ofInt 64 (s.pc.toInt + imm20.toInt * 4096))) ∧
  RowDecodes 0x00000037#32 0x0000007F#32 (fun w => .lui (rdOf w) (w.extractLsb' 12 20)) ∧
  RowDecodes 0x00000017#32 0x0000007F#32 (fun w => .auipc (rdOf w) (w.extractLsb' 12 20))

/-- R210, R211: FENCE only advances the pc, whatever its other fields; all its words do the same, so rd is not written and rs1
not read. The selector values are the spec's decision D4 (log entry 10). -/
def Obligations.FenceOnlyAdvancesThePc : Prop :=
  (∀ (fm pred succ : BitVec 4) (rs1 rd : RegIdx) (s : State), CompletesAt (.fence fm pred succ rs1 rd) s (s.pc + 4)) ∧
  RowDecodes 0x0000000F#32 0x0000707F#32
    (fun w => .fence (w.extractLsb' 28 4) (w.extractLsb' 24 4) (w.extractLsb' 20 4) (rs1Of w) (rdOf w)) ∧
  (∀ (w : InstrWord) (s : State), w &&& 0x0000707F#32 = 0x0000000F#32 → execute w s = execute 0x0000000F#32 s)

/-- The encodings that the spec's own decisions make IllegalInstruction: MISC-MEM with funct3 other than 000 (D6), every SYSTEM
word (D7), JALR with funct3 other than 000 (D8), the word shift-immediates' high bits and the absent funct3 of OP-IMM-32 (D9). -/
def Obligations.EncodingsDecidedIllegalFault : Prop :=
  (∀ w, opcodeNum w = 0x0F → funct3Num w ≠ 0 → FaultsIllegal w) ∧
  (∀ w, opcodeNum w = 0x73 → FaultsIllegal w) ∧
  (∀ w, opcodeNum w = 0x67 → funct3Num w ≠ 0 → FaultsIllegal w) ∧
  (∀ w, opcodeNum w = 0x1B → funct3Num w ∈ [2, 3, 4, 6, 7] → FaultsIllegal w) ∧
  (∀ w, opcodeNum w = 0x1B → funct3Num w = 1 → funct7Num w ≠ 0 → FaultsIllegal w) ∧
  (∀ w, opcodeNum w = 0x1B → funct3Num w = 5 → funct7Num w ≠ 0 → funct7Num w ≠ 0x20 → FaultsIllegal w)

/-! Faults and outcomes. -/

/-- A step is IllegalInstruction exactly on the causes of the spec's table, from the word alone. The rows on MISC-MEM, SYSTEM,
JALR and OP-IMM-32 are the spec's decisions D6 to D9, the selector values D4 (log entry 10). -/
def Obligations.IllegalInstructionExactlyOnItsCauses : Prop :=
  ∀ (w : InstrWord) (s : State), execute w s = .fault .illegalInstruction ↔ IllegalCause w

/-- R160, R221: a step is InstructionAddressMisaligned exactly when it is a jump or a taken branch whose target is not a multiple
of 4. -/
def Obligations.MisalignedFaultExactlyOnMisalignedTargets : Prop :=
  (∀ i s, exec i s = .fault .instructionAddressMisaligned ↔ ∃ tgt, jumpTarget s i = some tgt ∧ tgt.toNat % 4 ≠ 0) ∧
  (∀ w s, execute w s = .fault .instructionAddressMisaligned ↔
    ∃ i tgt, decode w = .ok i ∧ jumpTarget s i = some tgt ∧ tgt.toNat % 4 ≠ 0)

/-- R222: every step on every word and state commits or is one of the two faults; nothing is refused. -/
def Obligations.EveryStepHasOneOutcome : Prop :=
  ∀ (w : InstrWord) (s : State),
    (∃ t, execute w s = .next t ∧ stateAfter s (execute w s) = t) ∨
    execute w s = .fault .illegalInstruction ∨ execute w s = .fault .instructionAddressMisaligned

/-- R223: a faulting step commits nothing: registers, pc and memory are as before, and no bus operation was issued. -/
def Obligations.FaultCommitsNothing : Prop :=
  ∀ w s f, execute w s = .fault f → stateAfter s (execute w s) = s ∧ ∀ i, decode w = .ok i → busRequest i s = none

/-- IllegalInstruction is decided first and by the word alone, so it cannot compete with a misaligned target, which only a
word that decodes to JAL, JALR or a branch can give. That JALR's other funct3 values are illegal is the spec's decision D8
(60_exceptions.md, section 2; log entry 10). -/
def Obligations.IllegalPreemptsMisaligned : Prop :=
  (∀ w s u, execute w s = .fault .illegalInstruction ↔ execute w u = .fault .illegalInstruction) ∧
  (∀ w s, execute w s = .fault .instructionAddressMisaligned → ∃ i, decode w = .ok i ∧ isControl i = true) ∧
  (∀ w s, opcodeNum w = 0x67 → funct3Num w ≠ 0 → execute w s = .fault .illegalInstruction) ∧
  (∀ w s, opcodeNum w = 0x63 → funct3Num w = 2 ∨ funct3Num w = 3 → execute w s = .fault .illegalInstruction)

/-! The bus and the step. -/

/-- The bus operations of a step: the table's one operation for each load and store (a load to x0 included), none for the rest
and none on a fault; and memory changes by that operation alone (20_memory.md, section 1; decisions D14 and D24 of the spec). -/
def Obligations.BusTrafficIsOneOperationPerAccess : Prop :=
  (∀ i s, busRequest i s = busOperation s i) ∧
  (∀ i s t, exec i s = .next t →
    t.mem = match busRequest i s with
      | some r => busPerform s.mem r
      | none => s.mem) ∧
  (∀ i s r, busRequest i s = some r → ∃ t, exec i s = .next t)

/-- The block learns of memory only the answer to its one bus operation: two states with the same registers and pc whose buses
answer that operation alike give the same outcome, the same pc and the same registers (determinism given the bus's answers,
70_reset_and_hazards.md section 2). -/
def Obligations.BlockDependsOnlyOnTheBusAnswer : Prop :=
  ∀ (w : InstrWord) (s u : State), s.pc = u.pc → (∀ r, s.x r = u.x r) →
    (∀ i r, decode w = .ok i → busRequest i s = some r → busAnswer s.mem r = busAnswer u.mem r) →
    SameBlockOutcome (execute w s) (execute w u)

/-- A step runs the instruction whose bytes stand at the pc (the host's fetch, decision D13, log entry 6), with nothing around
it; bytes that are no instruction are IllegalInstruction. -/
def Obligations.StepRunsTheDecodedInstruction : Prop :=
  (∀ s i, decode (wordAtPc s) = .ok i → step s = exec i s) ∧
  (∀ s i, i.wellFormed = true → (∀ k < 4, byteAt s.mem (s.pc + BitVec.ofNat 64 k) = (encode i).extractLsb' (8 * k) 8) →
    step s = exec i s) ∧
  (∀ s e, decode (wordAtPc s) = .error e → step s = .fault .illegalInstruction)

/-- A placed word is the next one executed, and placing it changes nothing but its four bytes (log entry 7). -/
def Obligations.PlacedWordIsTheNextExecuted : Prop :=
  ∀ (s : State) (w : InstrWord),
    step (s.withFetchWord 32 w.toNat) = execute w (s.withFetchWord 32 w.toNat) ∧
    (∀ r, (s.withFetchWord 32 w.toNat).x r = s.x r) ∧ (s.withFetchWord 32 w.toNat).pc = s.pc ∧
    ∀ b, (∀ k < 4, b ≠ s.pc + BitVec.ofNat 64 k) → byteAt (s.withFetchWord 32 w.toNat).mem b = byteAt s.mem b

/-- A word stored at the address after the store instruction is the word the next step executes, with no fence (20_memory.md,
section 6; decision D13, log entry 6). -/
def Obligations.StoreIsSeenByTheNextFetch : Prop :=
  ∀ (rs1 rs2 : RegIdx) (imm : BitVec 12) (s : State), effectiveAddress s rs1 imm = s.pc + 4 →
    ∃ t, exec (.sw rs1 rs2 imm) s = .next t ∧ step t = execute (low32 (s.x rs2)) t

/-- Every step keeps the memory's canonical form (the model's own, log entry 3). -/
def Obligations.MemoryStaysCanonical : Prop :=
  (∀ s t, memCanonical s → step s = .next t → memCanonical t) ∧
  ∀ s w, memCanonical s → memCanonical (s.withFetchWord 32 w)

/-- In canonical form, memories that read alike at every address are equal data (the model's own, log entry 3). -/
def Obligations.CanonicalMemoriesThatReadAlikeAreEqual : Prop :=
  ∀ m n : Memory, Memory.wf m = true → Memory.wf n = true → (∀ a : Addr, byteAt m a = byteAt n a) → m = n

/-- The run loop: a run keeps the invariant to its end whatever the end; a completed run stands at END_PC, an unfinished one does
not, and no run is refused; a run from END_PC executes nothing; and the state a faulted run reports is the one before the faulting
step. Away from END_PC a run with budget left takes one step: it goes on with one less from a next state and ends at a fault; with
no budget left it is unfinished (70_reset_and_hazards.md section 1; decisions D11 and D17, log entries 8 and 16). -/
def Obligations.RunEndsAsTheHostDecides : Prop :=
  (∀ endPc n s, GoodState s → GoodState (runFrom endPc n s).state) ∧
  (∀ endPc n s t, runFrom endPc n s = .completed t → t.pc = endPc) ∧
  (∀ endPc n s t, runFrom endPc n s = .unfinished t → t.pc ≠ endPc) ∧
  (∀ endPc n s r t, runFrom endPc n s ≠ .refused r t) ∧
  (∀ n s, runFrom s.pc n s = .completed s) ∧
  (∀ endPc n s, SafeRun endPc n s ∨ ∃ f t, runFrom endPc n s = .faulted f t) ∧
  (∀ endPc n s t f, runFrom endPc n s = .faulted f t → step t = .fault f) ∧
  (∀ endPc n s t, s.pc ≠ endPc → step s = .next t → runFrom endPc (n + 1) s = runFrom endPc n t) ∧
  (∀ endPc n s f, s.pc ≠ endPc → step s = .fault f → runFrom endPc (n + 1) s = .faulted f s) ∧
  (∀ endPc s, s.pc ≠ endPc → runFrom endPc 0 s = .unfinished s)

/-! The open bus. -/

/-- The machine's own `execute` and `step` are the block on the reference bus, the default value of the parameter `BUS`
(20_memory.md section 7; decision D12, log entries 4 and 19). -/
def Obligations.ReferenceBusIsTheDefault : Prop :=
  (∀ w s, executeOn referenceBus w (s.block, s.mem) = asBusResult s (execute w s)) ∧
  (∀ s, stepOn referenceBus (s.block, s.mem) = asBusResult s (step s))

/-- On every bus, whatever it answers: a load issues its one operation, converts the answer's low bits into its destination and
leaves the bus as the operation left it; a store issues its one operation with the truncated data; and an access that the bus
refuses leaves the step stuck (20_memory.md sections 1, 3 and 4; decisions D12 and D14, log entries 4 and 19). -/
def Obligations.EveryBusCarriesLoadsAndStores : Prop :=
  ∀ (B : Bus) (s : BusState B) (rd rs1 rs2 : RegIdx) (imm : BitVec 12),
    LoadsFrom B (.lb rd rs1 imm) s rd .byte (addressOn s rs1 imm) (fun v => BitVec.ofInt 64 (BitVec.ofNat 8 v.toNat).toInt) ∧
    LoadsFrom B (.lh rd rs1 imm) s rd .half (addressOn s rs1 imm) (fun v => BitVec.ofInt 64 (BitVec.ofNat 16 v.toNat).toInt) ∧
    LoadsFrom B (.lw rd rs1 imm) s rd .word (addressOn s rs1 imm) (fun v => BitVec.ofInt 64 (BitVec.ofNat 32 v.toNat).toInt) ∧
    LoadsFrom B (.ld rd rs1 imm) s rd .double (addressOn s rs1 imm) (fun v => v) ∧
    LoadsFrom B (.lbu rd rs1 imm) s rd .byte (addressOn s rs1 imm) (fun v => BitVec.ofNat 64 (v.toNat % 2 ^ 8)) ∧
    LoadsFrom B (.lhu rd rs1 imm) s rd .half (addressOn s rs1 imm) (fun v => BitVec.ofNat 64 (v.toNat % 2 ^ 16)) ∧
    LoadsFrom B (.lwu rd rs1 imm) s rd .word (addressOn s rs1 imm) (fun v => BitVec.ofNat 64 (v.toNat % 2 ^ 32)) ∧
    StoresTo B (.sb rs1 rs2 imm) s .byte (addressOn s rs1 imm) (BitVec.ofNat 64 ((s.1.x rs2).toNat % 2 ^ 8)) ∧
    StoresTo B (.sh rs1 rs2 imm) s .half (addressOn s rs1 imm) (BitVec.ofNat 64 ((s.1.x rs2).toNat % 2 ^ 16)) ∧
    StoresTo B (.sw rs1 rs2 imm) s .word (addressOn s rs1 imm) (BitVec.ofNat 64 ((s.1.x rs2).toNat % 2 ^ 32)) ∧
    StoresTo B (.sd rs1 rs2 imm) s .double (addressOn s rs1 imm) (s.1.x rs2)

/-- Every other instruction does on every bus what it does on the reference bus, whatever either holds, and leaves the bus alone;
both faults, of a word that is an instruction and of one that is none, come of the block alone and leave the bus alone, so that in
a step only the host's fetch has changed it; and a step is stuck only where the bus refuses the access that the instruction issues
or the host's fetch (20_memory.md sections 1 and 3; decisions D12, D13 and D24, log entries 4, 6 and 19). -/
def Obligations.NothingElseComesOfTheBus : Prop :=
  ∀ (B : Bus) (i : Instr) (s : BusState B) (m : Memory),
    (∀ t, busRequest i (s.1.withMemory m) = none → exec i (s.1.withMemory m) = .next t → execOn B i s = .next (t.block, s.2)) ∧
    (∀ f c, execOn B i s = .fault (f, c) ↔ exec i (s.1.withMemory m) = .fault f ∧ c = s.2) ∧
    (∀ w f c, executeOn B w s = .fault (f, c) ↔ execute w (s.1.withMemory m) = .fault f ∧ c = s.2) ∧
    (∀ w e, decode w = .error e → executeOn B w s = .fault (.illegalInstruction, s.2)) ∧
    (∀ f c, stepOn B s = .fault (f, c) ↔
      ∃ v, B.load .word s.1.pc s.2 = some (v, c) ∧ execute (BitVec.ofNat 32 v.toNat) (s.1.withMemory m) = .fault f) ∧
    (∀ r, execOn B i s = .refused (.stuck r) ↔ busRequest i (s.1.withMemory m) = some r ∧ B.perform s.2 r = none) ∧
    (∀ r, stepOn B s = .refused (.stuck r) →
      r = .load .word s.1.pc ∧ B.load .word s.1.pc s.2 = none ∨
      ∃ v c j, B.load .word s.1.pc s.2 = some (v, c) ∧ decode (BitVec.ofNat 32 v.toNat) = .ok j ∧
        busRequest j (s.1.withMemory m) = some r ∧ B.perform c r = none) ∧
    ∀ r, stepOn B s ≠ .refused (.refused r)

/-- The run loop on every bus: a run from END_PC executes nothing; away from it a run with budget left takes one step, going on with
one less from a next state and ending at a fault or a stuck step with the state before that step; with no budget left it is
unfinished; a completed run stands at END_PC, an unfinished one does not; the pc stays aligned to the end; and the machine's own
run is the run on the reference bus (70_reset_and_hazards.md section 1; decisions D11, D12 and D17, log entries 8, 16 and 19). -/
def Obligations.RunsOnEveryBusTakeSteps : Prop :=
  (∀ (B : Bus) (endPc : Word) (n : Nat) (s : BusState B),
    (s.1.pc = endPc → runOn B endPc n s = .completed s) ∧
    (∀ t, s.1.pc ≠ endPc → stepOn B s = .next t → runOn B endPc (n + 1) s = runOn B endPc n t) ∧
    (∀ f, s.1.pc ≠ endPc → stepOn B s = .fault f → runOn B endPc (n + 1) s = .faulted f s) ∧
    (∀ r, s.1.pc ≠ endPc → stepOn B s = .refused r → runOn B endPc (n + 1) s = .refused r s) ∧
    (s.1.pc ≠ endPc → runOn B endPc 0 s = .unfinished s) ∧
    (∀ t, runOn B endPc n s = .completed t → t.1.pc = endPc) ∧
    (∀ t, runOn B endPc n s = .unfinished t → t.1.pc ≠ endPc) ∧
    (∀ f t, runOn B endPc n s = .faulted f t → stepOn B t = .fault f) ∧
    (∀ r t, runOn B endPc n s = .refused r t → stepOn B t = .refused r) ∧
    (s.1.pc.toNat % 4 = 0 → (runOn B endPc n s).state.1.pc.toNat % 4 = 0)) ∧
  ∀ endPc n s, runOn referenceBus endPc n (s.block, s.mem) = asBusRun (runFrom endPc n s)

/-- On every bus a step from an aligned pc gives an aligned pc (10_state.md section 2 says it of the block, whatever its bus;
decision D12, log entry 19). -/
def Obligations.PcStaysAlignedOnEveryBus : Prop :=
  ∀ (B : Bus) (s t : BusState B), s.1.pc.toNat % 4 = 0 → stepOn B s = .next t → t.1.pc.toNat % 4 = 0
end

