-- ==== Sys2Proof/Laws/Decode.lean ====
section
/-! SUPPORT. The fields of an encoded word, one lemma per format and field: what the decoder's extractions give back of what the
encoder placed (30_encoding.md R62, R65 to R72). -/

namespace Sys2Proof

@[simp] theorem regBits_toFin (r : RegIdx) : (regBits r).toFin = r := rfl
@[simp] theorem regBits_ofField (b : BitVec 5) : regBits b.toFin = b := rfl

/-! Format R. -/

@[simp] theorem opcodeOf_encR (f7 : BitVec 7) (r2 r1 : RegIdx) (f3 : BitVec 3) (rd : RegIdx) (op : BitVec 7) : opcodeOf (encR f7 r2 r1 f3 rd op) = op := by
  apply BitVec.eq_of_getLsbD_eq
  intro i hi
  simp only [opcodeOf, encR, BitVec.getLsbD_extractLsb', BitVec.getLsbD_append]
  interval_cases i <;> simp

@[simp] theorem funct3Of_encR (f7 : BitVec 7) (r2 r1 : RegIdx) (f3 : BitVec 3) (rd : RegIdx) (op : BitVec 7) : funct3Of (encR f7 r2 r1 f3 rd op) = f3 := by
  apply BitVec.eq_of_getLsbD_eq
  intro i hi
  simp only [funct3Of, encR, BitVec.getLsbD_extractLsb', BitVec.getLsbD_append]
  interval_cases i <;> simp

@[simp] theorem funct7Of_encR (f7 : BitVec 7) (r2 r1 : RegIdx) (f3 : BitVec 3) (rd : RegIdx) (op : BitVec 7) : funct7Of (encR f7 r2 r1 f3 rd op) = f7 := by
  apply BitVec.eq_of_getLsbD_eq
  intro i hi
  simp only [funct7Of, encR, BitVec.getLsbD_extractLsb', BitVec.getLsbD_append]
  interval_cases i <;> simp

@[simp] theorem rdOf_encR (f7 : BitVec 7) (r2 r1 : RegIdx) (f3 : BitVec 3) (rd : RegIdx) (op : BitVec 7) : rdOf (encR f7 r2 r1 f3 rd op) = rd :=
  congrArg BitVec.toFin (show (encR f7 r2 r1 f3 rd op).extractLsb' 7 5 = regBits rd from by
  apply BitVec.eq_of_getLsbD_eq
  intro i hi
  simp only [encR, BitVec.getLsbD_extractLsb', BitVec.getLsbD_append]
  interval_cases i <;> simp)

@[simp] theorem rs1Of_encR (f7 : BitVec 7) (r2 r1 : RegIdx) (f3 : BitVec 3) (rd : RegIdx) (op : BitVec 7) : rs1Of (encR f7 r2 r1 f3 rd op) = r1 :=
  congrArg BitVec.toFin (show (encR f7 r2 r1 f3 rd op).extractLsb' 15 5 = regBits r1 from by
  apply BitVec.eq_of_getLsbD_eq
  intro i hi
  simp only [encR, BitVec.getLsbD_extractLsb', BitVec.getLsbD_append]
  interval_cases i <;> simp)

@[simp] theorem rs2Of_encR (f7 : BitVec 7) (r2 r1 : RegIdx) (f3 : BitVec 3) (rd : RegIdx) (op : BitVec 7) : rs2Of (encR f7 r2 r1 f3 rd op) = r2 :=
  congrArg BitVec.toFin (show (encR f7 r2 r1 f3 rd op).extractLsb' 20 5 = regBits r2 from by
  apply BitVec.eq_of_getLsbD_eq
  intro i hi
  simp only [encR, BitVec.getLsbD_extractLsb', BitVec.getLsbD_append]
  interval_cases i <;> simp)

/-! Format I, its two shift forms and FENCE's fields. -/

@[simp] theorem opcodeOf_encI (imm : BitVec 12) (r1 : RegIdx) (f3 : BitVec 3) (rd : RegIdx) (op : BitVec 7) : opcodeOf (encI imm r1 f3 rd op) = op := by
  apply BitVec.eq_of_getLsbD_eq
  intro i hi
  simp only [opcodeOf, encI, BitVec.getLsbD_extractLsb', BitVec.getLsbD_append]
  interval_cases i <;> simp

@[simp] theorem funct3Of_encI (imm : BitVec 12) (r1 : RegIdx) (f3 : BitVec 3) (rd : RegIdx) (op : BitVec 7) : funct3Of (encI imm r1 f3 rd op) = f3 := by
  apply BitVec.eq_of_getLsbD_eq
  intro i hi
  simp only [funct3Of, encI, BitVec.getLsbD_extractLsb', BitVec.getLsbD_append]
  interval_cases i <;> simp

@[simp] theorem rdOf_encI (imm : BitVec 12) (r1 : RegIdx) (f3 : BitVec 3) (rd : RegIdx) (op : BitVec 7) : rdOf (encI imm r1 f3 rd op) = rd :=
  congrArg BitVec.toFin (show (encI imm r1 f3 rd op).extractLsb' 7 5 = regBits rd from by
  apply BitVec.eq_of_getLsbD_eq
  intro i hi
  simp only [encI, BitVec.getLsbD_extractLsb', BitVec.getLsbD_append]
  interval_cases i <;> simp)

@[simp] theorem rs1Of_encI (imm : BitVec 12) (r1 : RegIdx) (f3 : BitVec 3) (rd : RegIdx) (op : BitVec 7) : rs1Of (encI imm r1 f3 rd op) = r1 :=
  congrArg BitVec.toFin (show (encI imm r1 f3 rd op).extractLsb' 15 5 = regBits r1 from by
  apply BitVec.eq_of_getLsbD_eq
  intro i hi
  simp only [encI, BitVec.getLsbD_extractLsb', BitVec.getLsbD_append]
  interval_cases i <;> simp)

@[simp] theorem gatherI_encI (imm : BitVec 12) (r1 : RegIdx) (f3 : BitVec 3) (rd : RegIdx) (op : BitVec 7) : gatherI (encI imm r1 f3 rd op) = imm := by
  apply BitVec.eq_of_getLsbD_eq
  intro i hi
  simp only [gatherI, encI, BitVec.getLsbD_extractLsb', BitVec.getLsbD_append]
  interval_cases i <;> simp

@[simp] theorem shtype6Of_encI (ty sh : BitVec 6) (r1 : RegIdx) (f3 : BitVec 3) (rd : RegIdx) (op : BitVec 7) : shtype6Of (encI (ty ++ sh) r1 f3 rd op) = ty := by
  apply BitVec.eq_of_getLsbD_eq
  intro i hi
  simp only [shtype6Of, encI, BitVec.getLsbD_extractLsb', BitVec.getLsbD_append]
  interval_cases i <;> simp

@[simp] theorem shamt6Of_encI (ty sh : BitVec 6) (r1 : RegIdx) (f3 : BitVec 3) (rd : RegIdx) (op : BitVec 7) : shamt6Of (encI (ty ++ sh) r1 f3 rd op) = sh := by
  apply BitVec.eq_of_getLsbD_eq
  intro i hi
  simp only [shamt6Of, encI, BitVec.getLsbD_extractLsb', BitVec.getLsbD_append]
  interval_cases i <;> simp

@[simp] theorem funct7Of_encI (f7 : BitVec 7) (sh : BitVec 5) (r1 : RegIdx) (f3 : BitVec 3) (rd : RegIdx) (op : BitVec 7) : funct7Of (encI (f7 ++ sh) r1 f3 rd op) = f7 := by
  apply BitVec.eq_of_getLsbD_eq
  intro i hi
  simp only [funct7Of, encI, BitVec.getLsbD_extractLsb', BitVec.getLsbD_append]
  interval_cases i <;> simp

@[simp] theorem shamt5Of_encI (f7 : BitVec 7) (sh : BitVec 5) (r1 : RegIdx) (f3 : BitVec 3) (rd : RegIdx) (op : BitVec 7) : shamt5Of (encI (f7 ++ sh) r1 f3 rd op) = sh := by
  apply BitVec.eq_of_getLsbD_eq
  intro i hi
  simp only [shamt5Of, encI, BitVec.getLsbD_extractLsb', BitVec.getLsbD_append]
  interval_cases i <;> simp

@[simp] theorem fence_fm_encI (fm pred succ : BitVec 4) (r1 : RegIdx) (f3 : BitVec 3) (rd : RegIdx) (op : BitVec 7) : (encI (fm ++ pred ++ succ) r1 f3 rd op).extractLsb' 28 4 = fm := by
  apply BitVec.eq_of_getLsbD_eq
  intro i hi
  simp only [encI, BitVec.getLsbD_extractLsb', BitVec.getLsbD_append]
  interval_cases i <;> simp

@[simp] theorem fence_pred_encI (fm pred succ : BitVec 4) (r1 : RegIdx) (f3 : BitVec 3) (rd : RegIdx) (op : BitVec 7) : (encI (fm ++ pred ++ succ) r1 f3 rd op).extractLsb' 24 4 = pred := by
  apply BitVec.eq_of_getLsbD_eq
  intro i hi
  simp only [encI, BitVec.getLsbD_extractLsb', BitVec.getLsbD_append]
  interval_cases i <;> simp

@[simp] theorem fence_succ_encI (fm pred succ : BitVec 4) (r1 : RegIdx) (f3 : BitVec 3) (rd : RegIdx) (op : BitVec 7) : (encI (fm ++ pred ++ succ) r1 f3 rd op).extractLsb' 20 4 = succ := by
  apply BitVec.eq_of_getLsbD_eq
  intro i hi
  simp only [encI, BitVec.getLsbD_extractLsb', BitVec.getLsbD_append]
  interval_cases i <;> simp

/-! Format S. -/

@[simp] theorem opcodeOf_encS (imm : BitVec 12) (r2 r1 : RegIdx) (f3 : BitVec 3) (op : BitVec 7) : opcodeOf (encS imm r2 r1 f3 op) = op := by
  apply BitVec.eq_of_getLsbD_eq
  intro i hi
  simp only [opcodeOf, encS, BitVec.getLsbD_extractLsb', BitVec.getLsbD_append]
  interval_cases i <;> simp

@[simp] theorem funct3Of_encS (imm : BitVec 12) (r2 r1 : RegIdx) (f3 : BitVec 3) (op : BitVec 7) : funct3Of (encS imm r2 r1 f3 op) = f3 := by
  apply BitVec.eq_of_getLsbD_eq
  intro i hi
  simp only [funct3Of, encS, BitVec.getLsbD_extractLsb', BitVec.getLsbD_append]
  interval_cases i <;> simp

@[simp] theorem rs1Of_encS (imm : BitVec 12) (r2 r1 : RegIdx) (f3 : BitVec 3) (op : BitVec 7) : rs1Of (encS imm r2 r1 f3 op) = r1 :=
  congrArg BitVec.toFin (show (encS imm r2 r1 f3 op).extractLsb' 15 5 = regBits r1 from by
  apply BitVec.eq_of_getLsbD_eq
  intro i hi
  simp only [encS, BitVec.getLsbD_extractLsb', BitVec.getLsbD_append]
  interval_cases i <;> simp)

@[simp] theorem rs2Of_encS (imm : BitVec 12) (r2 r1 : RegIdx) (f3 : BitVec 3) (op : BitVec 7) : rs2Of (encS imm r2 r1 f3 op) = r2 :=
  congrArg BitVec.toFin (show (encS imm r2 r1 f3 op).extractLsb' 20 5 = regBits r2 from by
  apply BitVec.eq_of_getLsbD_eq
  intro i hi
  simp only [encS, BitVec.getLsbD_extractLsb', BitVec.getLsbD_append]
  interval_cases i <;> simp)

@[simp] theorem gatherS_encS (imm : BitVec 12) (r2 r1 : RegIdx) (f3 : BitVec 3) (op : BitVec 7) : gatherS (encS imm r2 r1 f3 op) = imm := by
  apply BitVec.eq_of_getLsbD_eq
  intro i hi
  simp only [gatherS, encS, BitVec.getLsbD_extractLsb', BitVec.getLsbD_append]
  interval_cases i <;> simp

/-! Format B. -/

@[simp] theorem opcodeOf_encB (off : BitVec 13) (r2 r1 : RegIdx) (f3 : BitVec 3) (op : BitVec 7) : opcodeOf (encB off r2 r1 f3 op) = op := by
  apply BitVec.eq_of_getLsbD_eq
  intro i hi
  simp only [opcodeOf, encB, BitVec.getLsbD_extractLsb', BitVec.getLsbD_append]
  interval_cases i <;> simp

@[simp] theorem funct3Of_encB (off : BitVec 13) (r2 r1 : RegIdx) (f3 : BitVec 3) (op : BitVec 7) : funct3Of (encB off r2 r1 f3 op) = f3 := by
  apply BitVec.eq_of_getLsbD_eq
  intro i hi
  simp only [funct3Of, encB, BitVec.getLsbD_extractLsb', BitVec.getLsbD_append]
  interval_cases i <;> simp

@[simp] theorem rs1Of_encB (off : BitVec 13) (r2 r1 : RegIdx) (f3 : BitVec 3) (op : BitVec 7) : rs1Of (encB off r2 r1 f3 op) = r1 :=
  congrArg BitVec.toFin (show (encB off r2 r1 f3 op).extractLsb' 15 5 = regBits r1 from by
  apply BitVec.eq_of_getLsbD_eq
  intro i hi
  simp only [encB, BitVec.getLsbD_extractLsb', BitVec.getLsbD_append]
  interval_cases i <;> simp)

@[simp] theorem rs2Of_encB (off : BitVec 13) (r2 r1 : RegIdx) (f3 : BitVec 3) (op : BitVec 7) : rs2Of (encB off r2 r1 f3 op) = r2 :=
  congrArg BitVec.toFin (show (encB off r2 r1 f3 op).extractLsb' 20 5 = regBits r2 from by
  apply BitVec.eq_of_getLsbD_eq
  intro i hi
  simp only [encB, BitVec.getLsbD_extractLsb', BitVec.getLsbD_append]
  interval_cases i <;> simp)

@[simp] theorem gatherB_encB (off : BitVec 13) (r2 r1 : RegIdx) (f3 : BitVec 3) (op : BitVec 7) (h : evenOffset off = true) : gatherB (encB off r2 r1 f3 op) = off := by
  apply BitVec.eq_of_getLsbD_eq
  intro i hi
  simp only [gatherB, encB, BitVec.getLsbD_extractLsb', BitVec.getLsbD_append]
  interval_cases i <;> simp_all [evenOffset]

/-! Format U. -/

@[simp] theorem opcodeOf_encU (imm20 : BitVec 20) (rd : RegIdx) (op : BitVec 7) : opcodeOf (encU imm20 rd op) = op := by
  apply BitVec.eq_of_getLsbD_eq
  intro i hi
  simp only [opcodeOf, encU, BitVec.getLsbD_extractLsb', BitVec.getLsbD_append]
  interval_cases i <;> simp

@[simp] theorem rdOf_encU (imm20 : BitVec 20) (rd : RegIdx) (op : BitVec 7) : rdOf (encU imm20 rd op) = rd :=
  congrArg BitVec.toFin (show (encU imm20 rd op).extractLsb' 7 5 = regBits rd from by
  apply BitVec.eq_of_getLsbD_eq
  intro i hi
  simp only [encU, BitVec.getLsbD_extractLsb', BitVec.getLsbD_append]
  interval_cases i <;> simp)

@[simp] theorem gatherU_encU (imm20 : BitVec 20) (rd : RegIdx) (op : BitVec 7) : gatherU (encU imm20 rd op) = imm20 := by
  apply BitVec.eq_of_getLsbD_eq
  intro i hi
  simp only [gatherU, encU, BitVec.getLsbD_extractLsb', BitVec.getLsbD_append]
  interval_cases i <;> simp

/-! Format J. -/

@[simp] theorem opcodeOf_encJ (off : BitVec 21) (rd : RegIdx) (op : BitVec 7) : opcodeOf (encJ off rd op) = op := by
  apply BitVec.eq_of_getLsbD_eq
  intro i hi
  simp only [opcodeOf, encJ, BitVec.getLsbD_extractLsb', BitVec.getLsbD_append]
  interval_cases i <;> simp

@[simp] theorem rdOf_encJ (off : BitVec 21) (rd : RegIdx) (op : BitVec 7) : rdOf (encJ off rd op) = rd :=
  congrArg BitVec.toFin (show (encJ off rd op).extractLsb' 7 5 = regBits rd from by
  apply BitVec.eq_of_getLsbD_eq
  intro i hi
  simp only [encJ, BitVec.getLsbD_extractLsb', BitVec.getLsbD_append]
  interval_cases i <;> simp)

@[simp] theorem gatherJ_encJ (off : BitVec 21) (rd : RegIdx) (op : BitVec 7) (h : evenOffset off = true) : gatherJ (encJ off rd op) = off := by
  apply BitVec.eq_of_getLsbD_eq
  intro i hi
  simp only [gatherJ, encJ, BitVec.getLsbD_extractLsb', BitVec.getLsbD_append]
  interval_cases i <;> simp_all [evenOffset]

/-! The other direction: the fields of a word reassemble it. -/

@[simp] theorem encR_fields (w : InstrWord) : encR (funct7Of w) (rs2Of w) (rs1Of w) (funct3Of w) (rdOf w) (opcodeOf w) = w := by
  apply BitVec.eq_of_getLsbD_eq
  intro i hi
  simp only [encR, funct7Of, rs2Of, rs1Of, funct3Of, rdOf, opcodeOf, regBits_ofField, BitVec.getLsbD_extractLsb', BitVec.getLsbD_append]
  interval_cases i <;> simp

@[simp] theorem encI_fields (w : InstrWord) : encI (gatherI w) (rs1Of w) (funct3Of w) (rdOf w) (opcodeOf w) = w := by
  apply BitVec.eq_of_getLsbD_eq
  intro i hi
  simp only [encI, gatherI, rs1Of, funct3Of, rdOf, opcodeOf, regBits_ofField, BitVec.getLsbD_extractLsb', BitVec.getLsbD_append]
  interval_cases i <;> simp

@[simp] theorem encS_fields (w : InstrWord) : encS (gatherS w) (rs2Of w) (rs1Of w) (funct3Of w) (opcodeOf w) = w := by
  apply BitVec.eq_of_getLsbD_eq
  intro i hi
  simp only [encS, gatherS, rs2Of, rs1Of, funct3Of, opcodeOf, regBits_ofField, BitVec.getLsbD_extractLsb', BitVec.getLsbD_append]
  interval_cases i <;> simp

@[simp] theorem encB_fields (w : InstrWord) : encB (gatherB w) (rs2Of w) (rs1Of w) (funct3Of w) (opcodeOf w) = w := by
  apply BitVec.eq_of_getLsbD_eq
  intro i hi
  simp only [encB, gatherB, rs2Of, rs1Of, funct3Of, opcodeOf, regBits_ofField, BitVec.getLsbD_extractLsb', BitVec.getLsbD_append]
  interval_cases i <;> simp

@[simp] theorem encU_fields (w : InstrWord) : encU (gatherU w) (rdOf w) (opcodeOf w) = w := by
  apply BitVec.eq_of_getLsbD_eq
  intro i hi
  simp only [encU, gatherU, rdOf, opcodeOf, regBits_ofField, BitVec.getLsbD_extractLsb', BitVec.getLsbD_append]
  interval_cases i <;> simp

@[simp] theorem encJ_fields (w : InstrWord) : encJ (gatherJ w) (rdOf w) (opcodeOf w) = w := by
  apply BitVec.eq_of_getLsbD_eq
  intro i hi
  simp only [encJ, gatherJ, rdOf, opcodeOf, regBits_ofField, BitVec.getLsbD_extractLsb', BitVec.getLsbD_append]
  interval_cases i <;> simp

@[simp] theorem shtype6_shamt6 (w : InstrWord) : (shtype6Of w ++ shamt6Of w : BitVec 12) = gatherI w := by
  apply BitVec.eq_of_getLsbD_eq
  intro i hi
  simp only [gatherI, shtype6Of, shamt6Of, BitVec.getLsbD_extractLsb', BitVec.getLsbD_append]
  interval_cases i <;> simp

@[simp] theorem funct7_shamt5 (w : InstrWord) : (funct7Of w ++ shamt5Of w : BitVec 12) = gatherI w := by
  apply BitVec.eq_of_getLsbD_eq
  intro i hi
  simp only [gatherI, funct7Of, shamt5Of, BitVec.getLsbD_extractLsb', BitVec.getLsbD_append]
  interval_cases i <;> simp

@[simp] theorem fence_fields (w : InstrWord) : (w.extractLsb' 28 4 ++ w.extractLsb' 24 4 ++ w.extractLsb' 20 4 : BitVec 12) = gatherI w := by
  apply BitVec.eq_of_getLsbD_eq
  intro i hi
  simp only [gatherI, BitVec.getLsbD_extractLsb', BitVec.getLsbD_append]
  interval_cases i <;> simp

@[simp] theorem gatherB_even (w : InstrWord) : evenOffset (gatherB w) = true := by
  rw [evenOffset, gatherB, BitVec.getLsbD_append]; simp

@[simp] theorem gatherJ_even (w : InstrWord) : evenOffset (gatherJ w) = true := by
  rw [evenOffset, gatherJ, BitVec.getLsbD_append]; simp

/-! The four masks of the opcode table. -/

/-- The mask of formats U and J against the fields it covers (R65, R85). -/
theorem mask_opcode (w m : InstrWord) (hm : m &&& 0x0000007F#32 = m) : w &&& 0x0000007F#32 = m ↔ opcodeOf w = opcodeOf m := by
  constructor
  · rintro rfl
    · apply BitVec.eq_of_getLsbD_eq
      intro i hi
      simp only [opcodeOf, BitVec.getLsbD_extractLsb', BitVec.getLsbD_and]
      interval_cases i <;> simp
  · intro h0
    rw [← hm]
    apply BitVec.eq_of_getLsbD_eq
    intro i hi
    simp only [BitVec.getLsbD_and]
    by_cases c0 : 0 ≤ i ∧ i < 7
    · have e := congrArg (fun b : BitVec 7 => b.getLsbD (i - 0)) h0
      simp only [opcodeOf, BitVec.getLsbD_extractLsb', show i - 0 < 7 by omega, decide_true, Bool.true_and,
        show 0 + (i - 0) = i by omega] at e
      rw [e]
    have z : (0x0000007F#32).getLsbD i = false := by
      interval_cases i <;> simp_all
    simp [z]

/-- The mask of formats I, S and B against the fields it covers (R65, R85). -/
theorem mask_funct3 (w m : InstrWord) (hm : m &&& 0x0000707F#32 = m) : w &&& 0x0000707F#32 = m ↔ opcodeOf w = opcodeOf m ∧ funct3Of w = funct3Of m := by
  constructor
  · rintro rfl
    refine ⟨?_, ?_⟩ <;>
    · apply BitVec.eq_of_getLsbD_eq
      intro i hi
      simp only [opcodeOf, funct3Of, BitVec.getLsbD_extractLsb', BitVec.getLsbD_and]
      interval_cases i <;> simp
  · rintro ⟨h0, h1⟩
    rw [← hm]
    apply BitVec.eq_of_getLsbD_eq
    intro i hi
    simp only [BitVec.getLsbD_and]
    by_cases c0 : 0 ≤ i ∧ i < 7
    · have e := congrArg (fun b : BitVec 7 => b.getLsbD (i - 0)) h0
      simp only [opcodeOf, BitVec.getLsbD_extractLsb', show i - 0 < 7 by omega, decide_true, Bool.true_and,
        show 0 + (i - 0) = i by omega] at e
      rw [e]
    by_cases c1 : 12 ≤ i ∧ i < 15
    · have e := congrArg (fun b : BitVec 3 => b.getLsbD (i - 12)) h1
      simp only [funct3Of, BitVec.getLsbD_extractLsb', show i - 12 < 3 by omega, decide_true, Bool.true_and,
        show 12 + (i - 12) = i by omega] at e
      rw [e]
    have z : (0x0000707F#32).getLsbD i = false := by
      interval_cases i <;> simp_all
    simp [z]

/-- The mask of format R and the word shifts against the fields it covers (R65, R85). -/
theorem mask_funct7 (w m : InstrWord) (hm : m &&& 0xFE00707F#32 = m) : w &&& 0xFE00707F#32 = m ↔ opcodeOf w = opcodeOf m ∧ funct3Of w = funct3Of m ∧ funct7Of w = funct7Of m := by
  constructor
  · rintro rfl
    refine ⟨?_, ?_, ?_⟩ <;>
    · apply BitVec.eq_of_getLsbD_eq
      intro i hi
      simp only [opcodeOf, funct3Of, funct7Of, BitVec.getLsbD_extractLsb', BitVec.getLsbD_and]
      interval_cases i <;> simp
  · rintro ⟨h0, h1, h2⟩
    rw [← hm]
    apply BitVec.eq_of_getLsbD_eq
    intro i hi
    simp only [BitVec.getLsbD_and]
    by_cases c0 : 0 ≤ i ∧ i < 7
    · have e := congrArg (fun b : BitVec 7 => b.getLsbD (i - 0)) h0
      simp only [opcodeOf, BitVec.getLsbD_extractLsb', show i - 0 < 7 by omega, decide_true, Bool.true_and,
        show 0 + (i - 0) = i by omega] at e
      rw [e]
    by_cases c1 : 12 ≤ i ∧ i < 15
    · have e := congrArg (fun b : BitVec 3 => b.getLsbD (i - 12)) h1
      simp only [funct3Of, BitVec.getLsbD_extractLsb', show i - 12 < 3 by omega, decide_true, Bool.true_and,
        show 12 + (i - 12) = i by omega] at e
      rw [e]
    by_cases c2 : 25 ≤ i ∧ i < 32
    · have e := congrArg (fun b : BitVec 7 => b.getLsbD (i - 25)) h2
      simp only [funct7Of, BitVec.getLsbD_extractLsb', show i - 25 < 7 by omega, decide_true, Bool.true_and,
        show 25 + (i - 25) = i by omega] at e
      rw [e]
    have z : (0xFE00707F#32).getLsbD i = false := by
      interval_cases i <;> simp_all
    simp [z]

/-- The mask of the 64-bit immediate shifts against the fields it covers (R65, R85). -/
theorem mask_shtype6 (w m : InstrWord) (hm : m &&& 0xFC00707F#32 = m) : w &&& 0xFC00707F#32 = m ↔ opcodeOf w = opcodeOf m ∧ funct3Of w = funct3Of m ∧ shtype6Of w = shtype6Of m := by
  constructor
  · rintro rfl
    refine ⟨?_, ?_, ?_⟩ <;>
    · apply BitVec.eq_of_getLsbD_eq
      intro i hi
      simp only [opcodeOf, funct3Of, shtype6Of, BitVec.getLsbD_extractLsb', BitVec.getLsbD_and]
      interval_cases i <;> simp
  · rintro ⟨h0, h1, h2⟩
    rw [← hm]
    apply BitVec.eq_of_getLsbD_eq
    intro i hi
    simp only [BitVec.getLsbD_and]
    by_cases c0 : 0 ≤ i ∧ i < 7
    · have e := congrArg (fun b : BitVec 7 => b.getLsbD (i - 0)) h0
      simp only [opcodeOf, BitVec.getLsbD_extractLsb', show i - 0 < 7 by omega, decide_true, Bool.true_and,
        show 0 + (i - 0) = i by omega] at e
      rw [e]
    by_cases c1 : 12 ≤ i ∧ i < 15
    · have e := congrArg (fun b : BitVec 3 => b.getLsbD (i - 12)) h1
      simp only [funct3Of, BitVec.getLsbD_extractLsb', show i - 12 < 3 by omega, decide_true, Bool.true_and,
        show 12 + (i - 12) = i by omega] at e
      rw [e]
    by_cases c2 : 26 ≤ i ∧ i < 32
    · have e := congrArg (fun b : BitVec 6 => b.getLsbD (i - 26)) h2
      simp only [shtype6Of, BitVec.getLsbD_extractLsb', show i - 26 < 6 by omega, decide_true, Bool.true_and,
        show 26 + (i - 26) = i by omega] at e
      rw [e]
    have z : (0xFC00707F#32).getLsbD i = false := by
      interval_cases i <;> simp_all
    simp [z]

/-! The bytes of a word. -/

/-- Decoding the bytes of a word is decoding the word. -/
theorem decodeBytes_wordBytes (w : InstrWord) (rest : List Byte) :
    decodeBytes (wordBytes w ++ rest) =
      match decode w with
      | .ok i => .ok (i, rest)
      | .error e => .error e := by
  have h : w.extractLsb' 24 8 ++ w.extractLsb' 16 8 ++ w.extractLsb' 8 8 ++ w.extractLsb' 0 8 = w := by
    apply BitVec.eq_of_getLsbD_eq
    intro i hi
    simp only [BitVec.getLsbD_extractLsb', BitVec.getLsbD_append]
    interval_cases i <;> simp
  cases hd : decode w <;> simp only [wordBytes, List.cons_append, List.nil_append, decodeBytes, h, hd]

end Sys2Proof
end

