-- ==== Sys2Proof/Laws/Memory.lean ====
section
/-! SUPPORT. The laws of memory: a read after a write, the canonical form and that every operation keeps it, and the reference
bus's accesses byte by byte. None of the read laws needs the canonical form. -/

namespace Sys2Proof.Machine

theorem Memory.get_erase (m : Memory) (a b : Nat) :
    Memory.get (Memory.erase m a) b = if b = a then Config.unlistedByte else Memory.get m b := by
  induction m with
  | nil => simp [Memory.erase, Memory.get]
  | cons c m ih =>
    obtain ⟨k, v⟩ := c
    unfold Memory.erase at *
    by_cases hk : k = a
    · subst hk
      by_cases hb : b = k
      · subst hb; simpa using ih
      · have : k ≠ b := fun h => hb h.symm
        simp_all [Memory.get]
    · by_cases hb : k = b
      · subst hb; simp [hk, Memory.get]
      · simpa [hk, Memory.get, hb] using ih

theorem Memory.get_insert_self (m : Memory) (a : Nat) (v : Byte) (h : Memory.get m a = Config.unlistedByte)
    (hn : ∀ c ∈ m, c.1 ≠ a) : Memory.get (Memory.insert m a v) a = v := by
  induction m with
  | nil => simp [Memory.insert, Memory.get]
  | cons c m ih =>
    obtain ⟨k, w⟩ := c
    have hk : k ≠ a := hn (k, w) (by simp)
    unfold Memory.insert
    split
    · simp [Memory.get]
    · have hm : ∀ c ∈ m, c.1 ≠ a := fun c hc => hn c (by simp [hc])
      simp only [Memory.get, hk, if_false] at h ⊢
      exact ih h hm

theorem Memory.get_insert_other (m : Memory) (a b : Nat) (v : Byte) (h : b ≠ a) :
    Memory.get (Memory.insert m a v) b = Memory.get m b := by
  have h' : a ≠ b := fun e => h e.symm
  induction m with
  | nil => simp [Memory.insert, Memory.get, h']
  | cons c m ih =>
    obtain ⟨k, w⟩ := c
    unfold Memory.insert
    split
    · simp [Memory.get, h']
    · simp [Memory.get, ih]

/-- What a key reads as after a byte is stored. -/
theorem Memory.get_set (m : Memory) (a b : Nat) (v : Byte) :
    Memory.get (Memory.set m a v) b = if b = a then v else Memory.get m b := by
  unfold Memory.set
  split
  · next h => rw [Memory.get_erase, h]
  · by_cases hb : b = a
    · subst hb
      rw [if_pos rfl]
      apply Memory.get_insert_self
      · simp [Memory.get_erase]
      · intro c hc
        simpa using (List.mem_filter.mp hc).2
    · simp [Memory.get_insert_other _ _ _ _ hb, Memory.get_erase, hb]

/-- Read after write, one byte. -/
theorem byteAt_setByte (m : Memory) (a b : Addr) (v : Byte) :
    byteAt (setByte m a v) b = if b = a then v else byteAt m b := by
  simp [byteAt, setByte, Memory.get_set, BitVec.toNat_inj]

@[simp] theorem byteAt_nil (a : Addr) : byteAt [] a = Config.unlistedByte := rfl

/-! The canonical form. -/

theorem Memory.wfFrom_mono {m : Memory} {lo hi : Nat} (hle : lo ≤ hi) (h : Memory.wfFrom hi m = true) :
    Memory.wfFrom lo m = true := by
  cases m with
  | nil => rfl
  | cons c m =>
    obtain ⟨k, v⟩ := c
    simp only [Memory.wfFrom, Bool.and_eq_true, decide_eq_true_eq] at *
    exact ⟨⟨⟨by omega, h.1.1.2⟩, h.1.2⟩, h.2⟩

theorem Memory.wfFrom_erase {m : Memory} {lo : Nat} (a : Nat) (h : Memory.wfFrom lo m = true) :
    Memory.wfFrom lo (Memory.erase m a) = true := by
  induction m generalizing lo with
  | nil => rfl
  | cons c m ih =>
    obtain ⟨k, v⟩ := c
    simp only [Memory.wfFrom, Bool.and_eq_true, decide_eq_true_eq] at h
    have hm := ih h.2
    unfold Memory.erase at *
    by_cases hk : k = a
    · simp only [hk, ne_eq, not_true_eq_false, decide_false, List.filter_cons, Bool.false_eq_true, if_false]
      rw [hk] at hm
      exact Memory.wfFrom_mono (by omega) hm
    · simp only [ne_eq, hk, not_false_eq_true, decide_true, List.filter_cons, if_true, Memory.wfFrom,
        Bool.and_eq_true, decide_eq_true_eq]
      exact ⟨h.1, by simpa using hm⟩

theorem Memory.wfFrom_insert {m : Memory} {lo a : Nat} {v : Byte} (hlo : lo ≤ a) (ha : a < 2 ^ 64)
    (hv : v ≠ Config.unlistedByte) (hn : ∀ c ∈ m, c.1 ≠ a) (h : Memory.wfFrom lo m = true) :
    Memory.wfFrom lo (Memory.insert m a v) = true := by
  induction m generalizing lo with
  | nil =>
    simp only [Memory.insert, Memory.wfFrom, Bool.and_eq_true, decide_eq_true_eq]
    exact ⟨⟨⟨hlo, ha⟩, hv⟩, trivial⟩
  | cons c m ih =>
    obtain ⟨k, w⟩ := c
    have hk : k ≠ a := hn (k, w) (by simp)
    simp only [Memory.wfFrom, Bool.and_eq_true, decide_eq_true_eq] at h
    unfold Memory.insert
    split
    · simp only [Memory.wfFrom, Bool.and_eq_true, decide_eq_true_eq]
      exact ⟨⟨⟨hlo, ha⟩, hv⟩, ⟨⟨by omega, h.1.1.2⟩, h.1.2⟩, h.2⟩
    · simp only [Memory.wfFrom, Bool.and_eq_true, decide_eq_true_eq]
      exact ⟨h.1, ih (by omega) (fun c hc => hn c (by simp [hc])) h.2⟩

/-- Storing one byte keeps the canonical form. -/
theorem setByte_wf (m : Memory) (a : Addr) (v : Byte) (h : Memory.wf m = true) : Memory.wf (setByte m a v) = true := by
  unfold setByte Memory.set Memory.wf at *
  split
  · exact Memory.wfFrom_erase _ h
  · next hv =>
    refine Memory.wfFrom_insert (Nat.zero_le _) a.isLt hv (fun c hc => ?_) (Memory.wfFrom_erase _ h)
    simpa using (List.mem_filter.mp hc).2

/-- `MemWrite` keeps the canonical form. -/
theorem memWrite_wf (m : Memory) (a : Addr) (n : Nat) (v : BitVec (8 * n)) (h : Memory.wf m = true) :
    Memory.wf (memWrite m a n v) = true := by
  induction n generalizing m a with
  | zero => exact h
  | succ n ih => exact ih _ _ _ (setByte_wf _ _ _ h)

/-- Every bus operation keeps the canonical form. -/
theorem busPerform_wf (m : Memory) (r : BusRequest) (h : Memory.wf m = true) : Memory.wf (busPerform m r) = true := by
  cases r with
  | load w a => exact h
  | store w a d => exact memWrite_wf _ _ _ _ h

theorem Memory.get_below {m : Memory} {lo a : Nat} (h : Memory.wfFrom lo m = true) (ha : a < lo) :
    Memory.get m a = Config.unlistedByte := by
  induction m generalizing lo with
  | nil => rfl
  | cons c m ih =>
    obtain ⟨k, v⟩ := c
    simp only [Memory.wfFrom, Bool.and_eq_true, decide_eq_true_eq] at h
    have hk : k ≠ a := by omega
    simpa [Memory.get, hk] using ih h.2 (by omega)

/-! The accesses byte by byte. -/

/-- Adding a small offset to an address, by the offset. -/
theorem addr_succ (a : Addr) (i : Nat) : a + 1 + BitVec.ofNat 64 i = a + BitVec.ofNat 64 (i + 1) := by
  rw [BitVec.add_assoc, Nat.add_comm i 1, BitVec.ofNat_add]; rfl

/-- Byte `i` of what `MemRead` answers is the byte at `a + i` (R45). -/
theorem memRead_byte (m : Memory) (a : Addr) (n i : Nat) (hi : i < n) :
    (memRead m a n).extractLsb' (8 * i) 8 = byteAt m (a + BitVec.ofNat 64 i) := by
  induction n generalizing a i with
  | zero => omega
  | succ n ih =>
    unfold memRead
    cases i with
    | zero =>
      ext k hk
      simp [BitVec.getLsbD_append, hk]
    | succ i =>
      rw [← addr_succ, ← ih (a + 1) i (by omega)]
      ext k hk
      simp only [BitVec.getElem_extractLsb', BitVec.getLsbD_append]
      rw [if_neg (by omega)]
      congr 1
      omega

/-- After `MemWrite`, an address that is none of the `n` written ones reads as before (R57). -/
theorem memWrite_byte_other (m : Memory) (a : Addr) (n : Nat) (v : BitVec (8 * n)) (b : Addr)
    (h : ∀ i < n, b ≠ a + BitVec.ofNat 64 i) : byteAt (memWrite m a n v) b = byteAt m b := by
  induction n generalizing m a with
  | zero => rfl
  | succ n ih =>
    have h0 : b ≠ a := by simpa using h 0 (by omega)
    unfold memWrite
    rw [ih _ _ _ (fun i hi => by rw [addr_succ]; exact h (i + 1) (by omega)), byteAt_setByte, if_neg h0]

/-- After `MemWrite` of at most 2^64 bytes, the byte at `a + i` is byte `i` of the value (R45, R57). -/
theorem memWrite_byte (m : Memory) (a : Addr) (n : Nat) (v : BitVec (8 * n)) (hn : n ≤ 2 ^ 64) (i : Nat) (hi : i < n) :
    byteAt (memWrite m a n v) (a + BitVec.ofNat 64 i) = v.extractLsb' (8 * i) 8 := by
  induction n generalizing m a i with
  | zero => omega
  | succ n ih =>
    unfold memWrite
    cases i with
    | zero =>
      rw [memWrite_byte_other]
      · simp [byteAt_setByte]
      · intro j hj he
        rw [addr_succ] at he
        have := congrArg BitVec.toNat he
        simp only [BitVec.toNat_add, BitVec.toNat_ofNat] at this
        have ha := a.isLt
        omega
    | succ i =>
      rw [← addr_succ, ih _ _ _ (by omega) i (by omega)]
      ext k hk
      simp [show 8 + (8 * i + k) = 8 * (i + 1) + k by omega]
      omega

/-- What `MemWrite` stored is what `MemRead` answers (R52, on the reference bus). -/
theorem memRead_memWrite (m : Memory) (a : Addr) (n : Nat) (v : BitVec (8 * n)) (hn : n ≤ 2 ^ 64) :
    memRead (memWrite m a n v) a n = v := by
  apply BitVec.eq_of_getLsbD_eq
  intro k hk
  have h := (memRead_byte (memWrite m a n v) a n (k / 8) (by omega)).trans (memWrite_byte m a n v hn (k / 8) (by omega))
  have hb := congrArg (fun b : BitVec 8 => b.getLsbD (k % 8)) h
  have hd : 8 * (k / 8) + k % 8 = k := by omega
  have hm : k % 8 < 8 := by omega
  simpa [BitVec.getLsbD_extractLsb', hd, hm] using hb

end Sys2Proof.Machine
end

