-- ==== Sys2Proof/Laws/State.lean ====
section
/-! SUPPORT. The small lemmas of the state's accessors: one per field per update, and what a register reads after a write. -/

namespace Sys2Proof.Machine

@[simp] theorem State.setPc_regs (s : State) (t : Word) : (s.setPc t).regs = s.regs := rfl
@[simp] theorem State.setPc_pc (s : State) (t : Word) : (s.setPc t).pc = t := rfl
@[simp] theorem State.setPc_mem (s : State) (t : Word) : (s.setPc t).mem = s.mem := rfl
@[simp] theorem State.setMem_regs (s : State) (m : Memory) : (s.setMem m).regs = s.regs := rfl
@[simp] theorem State.setMem_pc (s : State) (m : Memory) : (s.setMem m).pc = s.pc := rfl
@[simp] theorem State.setMem_mem (s : State) (m : Memory) : (s.setMem m).mem = m := rfl
@[simp] theorem State.setPc_setPc (s : State) (t u : Word) : (s.setPc t).setPc u = s.setPc u := rfl
@[simp] theorem State.setMem_setMem (s : State) (m n : Memory) : (s.setMem m).setMem n = s.setMem n := rfl

@[simp] theorem State.setX_pc (s : State) (r : RegIdx) (v : Word) : (s.setX r v).pc = s.pc := by
  unfold State.setX; split <;> rfl

@[simp] theorem State.setX_mem (s : State) (r : RegIdx) (v : Word) : (s.setX r v).mem = s.mem := by
  unfold State.setX; split <;> rfl

@[simp] theorem State.x_zero (s : State) : s.x 0 = 0 := rfl
@[simp] theorem State.x_setPc (s : State) (t : Word) (r : RegIdx) : (s.setPc t).x r = s.x r := rfl
@[simp] theorem State.x_setMem (s : State) (m : Memory) (r : RegIdx) : (s.setMem m).x r = s.x r := rfl
@[simp] theorem State.setX_zero (s : State) (v : Word) : s.setX 0 v = s := rfl

/-- What a register reads after a write (R21, R22): zero for register 0, the value for the register written, else as before. -/
theorem State.x_setX (s : State) (r q : RegIdx) (v : Word) :
    (s.setX r v).x q = if q = 0 then 0 else if q = r then v else s.x q := by
  unfold State.setX State.x
  by_cases hr : r.val = 0
  · have h0 : r = 0 := Fin.ext hr
    subst h0
    by_cases hq : q = 0 <;> simp [hq]
  · by_cases hq : q = 0
    · simp [hq]
    · have hq' : q.val ≠ 0 := fun h => hq (Fin.ext h)
      by_cases he : q = r
      · subst he; simp [hr, hq]
      · have hne : r.val - 1 ≠ q.val - 1 := fun h => he (Fin.ext (by omega))
        simp [hr, hq, hq', he, hne]

@[simp] theorem State.x_setX_other (s : State) {r q : RegIdx} (v : Word) (h : q ≠ r) : (s.setX r v).x q = s.x q := by
  rw [State.x_setX]
  by_cases hq : q = 0 <;> simp [hq, h]

theorem State.x_setX_self (s : State) (r : RegIdx) (v : Word) : (s.setX r v).x r = if r = 0 then 0 else v := by
  simp [State.x_setX]

/-- Two states are equal when their registers read alike and their pc and memory are equal. -/
theorem State.ext_x {s t : State} (hx : ∀ r, s.x r = t.x r) (hp : s.pc = t.pc) (hm : s.mem = t.mem) : s = t := by
  obtain ⟨sr, sp, sm⟩ := s
  obtain ⟨tr, tp, tm⟩ := t
  have : sr = tr := by
    refine Vector.ext fun i hi => ?_
    have h := hx ⟨i + 1, by omega⟩
    simpa [State.x] using h
  simp_all

end Sys2Proof.Machine
end

