-- ==== Sys2Proof/Laws/Ops.lean ====
section
/-! SUPPORT. One lemma per shared operation that says once everything it can do; the provers cite these instead of unfolding. -/

namespace Sys2Proof.Machine

/-- A commit is always a next state: the pc as R27 says, nothing else. -/
theorem commit_eq (t : Option Word) (s : State) : commit t s = .next (s.setPc (nextPc s.pc t)) := rfl

@[simp] theorem nextPc_none (pc : Word) : nextPc pc none = pc + 4 := rfl
@[simp] theorem nextPc_some (pc t : Word) : nextPc pc (some t) = t := rfl

/-- Raising a fault is that fault and never a next state. -/
theorem raise_eq (f : Fault) : raise f = .fault f := rfl

/-- `x[rd] <- v; pc <- pc + 4`: always a next state. -/
theorem writeBack_eq (rd : RegIdx) (v : Word) (s : State) :
    writeBack rd v s = .next ((s.setX rd v).setPc (s.pc + 4)) := by
  simp [writeBack, commit]

/-- The write-back of a word result: always a next state, the result sign-extended. -/
theorem writeBackWord_eq (rd : RegIdx) (r : BitVec 32) (s : State) :
    writeBackWord rd r s = .next ((s.setX rd (sext r)).setPc (s.pc + 4)) := writeBack_eq rd (sext r) s

/-- A jump: the fault when the target is misaligned, else link and target, never anything else. -/
theorem jumpAndLink_eq (rd : RegIdx) (t : Word) (s : State) :
    jumpAndLink rd t s =
      if misaligned t then .fault .instructionAddressMisaligned else .next ((s.setX rd (s.pc + 4)).setPc t) := by
  unfold jumpAndLink
  split <;> rfl

/-- A branch: default advance when not taken; when taken, the fault or the target. -/
theorem branchIf_eq (c : Bool) (off : BitVec 13) (s : State) :
    branchIf c off s =
      if c = false then .next (s.setPc (s.pc + 4))
      else if misaligned (relativeTarget s off) then .fault .instructionAddressMisaligned
      else .next (s.setPc (relativeTarget s off)) := by
  cases c
  · rfl
  · simp only [branchIf, if_true, Bool.true_eq_false, if_false]
    split <;> rfl

/-- A load: always a next state, in which `rd` holds the converted answer of the bus; memory and pc as R195 says. -/
theorem loadInto_eq (w : Width) (e : LoadExt) (rd rs1 : RegIdx) (imm : BitVec 12) (s : State) :
    loadInto w e rd rs1 imm s =
      .next ((s.setX rd (convertLoad w e (busAnswer s.mem (loadRequest w rs1 imm s)))).setPc (s.pc + 4)) :=
  writeBack_eq ..

/-- A store: always a next state, in which the bus has performed its one request; no register changes. -/
theorem storeFrom_eq (w : Width) (rs1 rs2 : RegIdx) (imm : BitVec 12) (s : State) :
    storeFrom w rs1 rs2 imm s =
      .next ((s.setMem (busPerform s.mem (storeRequest w rs1 rs2 imm s))).setPc (s.pc + 4)) := by
  simp [storeFrom, commit]

/-- The answer of a load through the converter's eyes: the low bits are what `MemRead` answered. -/
theorem busAnswer_load_low (m : Memory) (w : Width) (a : Addr) :
    (busAnswer m (.load w a)).extractLsb' 0 (8 * widthBytes w) = memRead m a (widthBytes w) := by
  apply BitVec.eq_of_getLsbD_eq
  intro i hi
  cases w <;> simp_all [busAnswer, widthBytes] <;> omega

/-- A load's value, by `MemRead` (R181). -/
theorem convertLoad_busAnswer (m : Memory) (w : Width) (e : LoadExt) (a : Addr) :
    convertLoad w e (busAnswer m (.load w a)) =
      match e with
      | .sign => sext (memRead m a (widthBytes w))
      | .zero => zext (memRead m a (widthBytes w)) := by
  cases e <;> simp only [convertLoad, busAnswer_load_low]

/-- A store's effect on memory, by `MemWrite` of the register's low bits (R182). -/
theorem busPerform_storeData (m : Memory) (w : Width) (a : Addr) (v : Word) :
    busPerform m (.store w a (storeData w v)) = memWrite m a (widthBytes w) (v.extractLsb' 0 (8 * widthBytes w)) := by
  simp only [busPerform]
  congr 1
  apply BitVec.eq_of_getLsbD_eq
  intro i hi
  cases w <;> simp_all [storeData, zext, widthBytes]

/-- The alignment check by the address as a number (R160). -/
theorem misaligned_iff (t : Word) : misaligned t = true ↔ t.toNat % 4 ≠ 0 := by
  simp [misaligned, ← BitVec.toNat_inj, BitVec.extractLsb'_toNat]

theorem aligned_iff (t : Word) : misaligned t = false ↔ t.toNat % 4 = 0 := by
  rw [← Bool.not_eq_true, misaligned_iff, not_not]

/-- The default advance keeps the pc's low bits (R251). -/
theorem misaligned_add_four (t : Word) : misaligned (t + 4) = misaligned t := by
  rw [Bool.eq_iff_iff, misaligned_iff, misaligned_iff, BitVec.toNat_add]
  simp only [BitVec.reduceToNat]
  omega

end Sys2Proof.Machine
end

