-- ==== Sys2Proof/Laws/OpenBus.lean ====
section
/-! SUPPORT. The laws of the open bus and of the run loop: a block and its memory, what one operation of a bus answers, and what a
step on a bus can do, case by case. -/

namespace Sys2Proof.Machine

@[simp] theorem Block.withMemory_pc (b : Block) (m : Memory) : (b.withMemory m).pc = b.pc := rfl
@[simp] theorem Block.withMemory_mem (b : Block) (m : Memory) : (b.withMemory m).mem = m := rfl
@[simp] theorem Block.x_withMemory (b : Block) (m : Memory) (r : RegIdx) : (b.withMemory m).x r = b.x r := rfl
@[simp] theorem Block.block_withMemory (b : Block) (m : Memory) : (b.withMemory m).block = b := rfl
@[simp] theorem State.block_pc (s : State) : s.block.pc = s.pc := rfl
@[simp] theorem State.block_x (s : State) (r : RegIdx) : s.block.x r = s.x r := rfl
@[simp] theorem State.withMemory_block (s : State) : s.block.withMemory s.mem = s := rfl

/-- Blocks are equal when their registers read alike and their pcs are equal. -/
theorem Block.ext_x {b d : Block} (hx : ∀ r, b.x r = d.x r) (hp : b.pc = d.pc) : b = d := by
  have h : b.withMemory [] = d.withMemory [] := State.ext_x hx hp rfl
  exact congrArg State.block h

@[simp] theorem onBus_next (B : Bus) (c : B.Content) (t : State) : onBus B c (.next t) = .next (t.block, c) := rfl
@[simp] theorem onBus_fault (B : Bus) (c : B.Content) (f : Fault) : onBus B c (.fault f) = .fault (f, c) := rfl
@[simp] theorem onBus_refused (B : Bus) (c : B.Content) (r : Refusal) : onBus B c (.refused r) = .refused (.refused r) := rfl

/-- The request of an instruction does not depend on what the bus holds. -/
theorem busRequest_withMemory (i : Instr) (b : Block) (m n : Memory) :
    busRequest i (b.withMemory m) = busRequest i (b.withMemory n) := by
  cases i <;> rfl

/-- The reference bus performs every request: its answer, and the content after it. -/
theorem referenceBus_perform (m : Memory) (r : BusRequest) :
    referenceBus.perform m r = some (busAnswer m r, busPerform m r) := by
  cases r <;> rfl

/-- A memory made to answer a load answers it with the low bits of the width. -/
theorem busAnswer_answering (w : Width) (a : Addr) (v : Word) :
    busAnswer (answering (.load w a) v) (.load w a) = (v.setWidth (8 * widthBytes w)).setWidth 64 := by
  simp only [busAnswer, answering]
  rw [memRead_memWrite _ _ _ _ (by cases w <;> decide)]

/-- An instruction without a bus operation: the block's own outcome, the bus as it was. -/
theorem execOn_none {B : Bus} {i : Instr} {s : BusState B} (h : busRequest i (s.1.withMemory []) = none) :
    execOn B i s = onBus B s.2 (exec i (s.1.withMemory [])) := by
  simp [execOn, h]

/-- An access that the bus refuses: stuck. -/
theorem execOn_stuck {B : Bus} {i : Instr} {s : BusState B} {r : BusRequest}
    (h : busRequest i (s.1.withMemory []) = some r) (hb : B.perform s.2 r = none) : execOn B i s = .refused (.stuck r) := by
  simp [execOn, h, hb]

/-- An access that the bus performs: the block's outcome on a memory that answers so, the bus as the operation left it. -/
theorem execOn_some {B : Bus} {i : Instr} {s : BusState B} {r : BusRequest} {v : Word} {c : B.Content}
    (h : busRequest i (s.1.withMemory []) = some r) (hb : B.perform s.2 r = some (v, c)) :
    execOn B i s = onBus B c (exec i (s.1.withMemory (answering r v))) := by
  simp [execOn, h, hb]

/-- A word that is an instruction, on any bus. -/
theorem executeOn_ok {B : Bus} {w : InstrWord} {i : Instr} (s : BusState B) (h : decode w = .ok i) :
    executeOn B w s = execOn B i s := by
  simp [executeOn, h]

/-- A word that is none: the fault, and the bus as it was. -/
theorem executeOn_error {B : Bus} {w : InstrWord} {e : DecodeError} (s : BusState B) (h : decode w = .error e) :
    executeOn B w s = .fault (.illegalInstruction, s.2) := by
  simp [executeOn, h]

/-- A fetch that the bus refuses: stuck. -/
theorem stepOn_stuck {B : Bus} {s : BusState B} (h : B.load .word s.1.pc s.2 = none) :
    stepOn B s = .refused (.stuck (.load .word s.1.pc)) := by
  simp [stepOn, h]

/-- A fetch that the bus answers: the block executes the answer's low word on the bus as the fetch left it. -/
theorem stepOn_some {B : Bus} {s : BusState B} {v : Word} {c : B.Content} (h : B.load .word s.1.pc s.2 = some (v, c)) :
    stepOn B s = executeOn B (v.setWidth 32) (s.1, c) := by
  simp [stepOn, h]

/-! The run loop. -/

theorem runWith_zero {σ φ ρ : Type} (step : σ → Host.Outcome σ φ ρ) (pcOf : σ → Word) (endPc : Word) (s : σ) :
    runWith step pcOf endPc 0 s = if pcOf s = endPc then .completed s else .unfinished s := rfl

theorem runWith_succ {σ φ ρ : Type} (step : σ → Host.Outcome σ φ ρ) (pcOf : σ → Word) (endPc : Word) (n : Nat) (s : σ) :
    runWith step pcOf endPc (n + 1) s =
      if pcOf s = endPc then .completed s
      else
        match step s with
        | .next t => runWith step pcOf endPc n t
        | .fault f => .faulted f s
        | .refused r => .refused r s := rfl

end Sys2Proof.Machine
end

