-- ==== Sys2Proof/Laws/PerInstr.lean ====
section
/-! SUPPORT. The family `TableRow`: every instruction's word lies in its own row of the opcode table (30_encoding.md R85), one lemma
per constructor. -/

namespace Sys2Proof.Laws.TableRow

/-- The word of `i` satisfies the match and mask of the table's row with its mnemonic. -/
def Statement (i : Instr) : Prop :=
  ∃ mtch mask : InstrWord, (i.mnemonic, mtch, mask) ∈ opcodeTable ∧ encode i &&& mask = mtch

theorem lui (rd : RegIdx) (imm20 : BitVec 20) : Statement (.lui rd imm20) :=
  ⟨0x00000037#32, 0x0000007F#32, show ("LUI", _, _) ∈ opcodeTable by decide,
    (mask_opcode _ _ (by decide)).2 (by simp only [encode]; simp; decide)⟩

theorem auipc (rd : RegIdx) (imm20 : BitVec 20) : Statement (.auipc rd imm20) :=
  ⟨0x00000017#32, 0x0000007F#32, show ("AUIPC", _, _) ∈ opcodeTable by decide,
    (mask_opcode _ _ (by decide)).2 (by simp only [encode]; simp; decide)⟩

theorem jal (rd : RegIdx) (off : BitVec 21) : Statement (.jal rd off) :=
  ⟨0x0000006F#32, 0x0000007F#32, show ("JAL", _, _) ∈ opcodeTable by decide,
    (mask_opcode _ _ (by decide)).2 (by simp only [encode]; simp; decide)⟩

theorem jalr (rd rs1 : RegIdx) (imm : BitVec 12) : Statement (.jalr rd rs1 imm) :=
  ⟨0x00000067#32, 0x0000707F#32, show ("JALR", _, _) ∈ opcodeTable by decide,
    (mask_funct3 _ _ (by decide)).2 (by simp only [encode]; simp; decide)⟩

theorem beq (rs1 rs2 : RegIdx) (off : BitVec 13) : Statement (.beq rs1 rs2 off) :=
  ⟨0x00000063#32, 0x0000707F#32, show ("BEQ", _, _) ∈ opcodeTable by decide,
    (mask_funct3 _ _ (by decide)).2 (by simp only [encode]; simp; decide)⟩

theorem bne (rs1 rs2 : RegIdx) (off : BitVec 13) : Statement (.bne rs1 rs2 off) :=
  ⟨0x00001063#32, 0x0000707F#32, show ("BNE", _, _) ∈ opcodeTable by decide,
    (mask_funct3 _ _ (by decide)).2 (by simp only [encode]; simp; decide)⟩

theorem blt (rs1 rs2 : RegIdx) (off : BitVec 13) : Statement (.blt rs1 rs2 off) :=
  ⟨0x00004063#32, 0x0000707F#32, show ("BLT", _, _) ∈ opcodeTable by decide,
    (mask_funct3 _ _ (by decide)).2 (by simp only [encode]; simp; decide)⟩

theorem bge (rs1 rs2 : RegIdx) (off : BitVec 13) : Statement (.bge rs1 rs2 off) :=
  ⟨0x00005063#32, 0x0000707F#32, show ("BGE", _, _) ∈ opcodeTable by decide,
    (mask_funct3 _ _ (by decide)).2 (by simp only [encode]; simp; decide)⟩

theorem bltu (rs1 rs2 : RegIdx) (off : BitVec 13) : Statement (.bltu rs1 rs2 off) :=
  ⟨0x00006063#32, 0x0000707F#32, show ("BLTU", _, _) ∈ opcodeTable by decide,
    (mask_funct3 _ _ (by decide)).2 (by simp only [encode]; simp; decide)⟩

theorem bgeu (rs1 rs2 : RegIdx) (off : BitVec 13) : Statement (.bgeu rs1 rs2 off) :=
  ⟨0x00007063#32, 0x0000707F#32, show ("BGEU", _, _) ∈ opcodeTable by decide,
    (mask_funct3 _ _ (by decide)).2 (by simp only [encode]; simp; decide)⟩

theorem lb (rd rs1 : RegIdx) (imm : BitVec 12) : Statement (.lb rd rs1 imm) :=
  ⟨0x00000003#32, 0x0000707F#32, show ("LB", _, _) ∈ opcodeTable by decide,
    (mask_funct3 _ _ (by decide)).2 (by simp only [encode]; simp; decide)⟩

theorem lh (rd rs1 : RegIdx) (imm : BitVec 12) : Statement (.lh rd rs1 imm) :=
  ⟨0x00001003#32, 0x0000707F#32, show ("LH", _, _) ∈ opcodeTable by decide,
    (mask_funct3 _ _ (by decide)).2 (by simp only [encode]; simp; decide)⟩

theorem lw (rd rs1 : RegIdx) (imm : BitVec 12) : Statement (.lw rd rs1 imm) :=
  ⟨0x00002003#32, 0x0000707F#32, show ("LW", _, _) ∈ opcodeTable by decide,
    (mask_funct3 _ _ (by decide)).2 (by simp only [encode]; simp; decide)⟩

theorem ld (rd rs1 : RegIdx) (imm : BitVec 12) : Statement (.ld rd rs1 imm) :=
  ⟨0x00003003#32, 0x0000707F#32, show ("LD", _, _) ∈ opcodeTable by decide,
    (mask_funct3 _ _ (by decide)).2 (by simp only [encode]; simp; decide)⟩

theorem lbu (rd rs1 : RegIdx) (imm : BitVec 12) : Statement (.lbu rd rs1 imm) :=
  ⟨0x00004003#32, 0x0000707F#32, show ("LBU", _, _) ∈ opcodeTable by decide,
    (mask_funct3 _ _ (by decide)).2 (by simp only [encode]; simp; decide)⟩

theorem lhu (rd rs1 : RegIdx) (imm : BitVec 12) : Statement (.lhu rd rs1 imm) :=
  ⟨0x00005003#32, 0x0000707F#32, show ("LHU", _, _) ∈ opcodeTable by decide,
    (mask_funct3 _ _ (by decide)).2 (by simp only [encode]; simp; decide)⟩

theorem lwu (rd rs1 : RegIdx) (imm : BitVec 12) : Statement (.lwu rd rs1 imm) :=
  ⟨0x00006003#32, 0x0000707F#32, show ("LWU", _, _) ∈ opcodeTable by decide,
    (mask_funct3 _ _ (by decide)).2 (by simp only [encode]; simp; decide)⟩

theorem sb (rs1 rs2 : RegIdx) (imm : BitVec 12) : Statement (.sb rs1 rs2 imm) :=
  ⟨0x00000023#32, 0x0000707F#32, show ("SB", _, _) ∈ opcodeTable by decide,
    (mask_funct3 _ _ (by decide)).2 (by simp only [encode]; simp; decide)⟩

theorem sh (rs1 rs2 : RegIdx) (imm : BitVec 12) : Statement (.sh rs1 rs2 imm) :=
  ⟨0x00001023#32, 0x0000707F#32, show ("SH", _, _) ∈ opcodeTable by decide,
    (mask_funct3 _ _ (by decide)).2 (by simp only [encode]; simp; decide)⟩

theorem sw (rs1 rs2 : RegIdx) (imm : BitVec 12) : Statement (.sw rs1 rs2 imm) :=
  ⟨0x00002023#32, 0x0000707F#32, show ("SW", _, _) ∈ opcodeTable by decide,
    (mask_funct3 _ _ (by decide)).2 (by simp only [encode]; simp; decide)⟩

theorem sd (rs1 rs2 : RegIdx) (imm : BitVec 12) : Statement (.sd rs1 rs2 imm) :=
  ⟨0x00003023#32, 0x0000707F#32, show ("SD", _, _) ∈ opcodeTable by decide,
    (mask_funct3 _ _ (by decide)).2 (by simp only [encode]; simp; decide)⟩

theorem addi (rd rs1 : RegIdx) (imm : BitVec 12) : Statement (.addi rd rs1 imm) :=
  ⟨0x00000013#32, 0x0000707F#32, show ("ADDI", _, _) ∈ opcodeTable by decide,
    (mask_funct3 _ _ (by decide)).2 (by simp only [encode]; simp; decide)⟩

theorem slti (rd rs1 : RegIdx) (imm : BitVec 12) : Statement (.slti rd rs1 imm) :=
  ⟨0x00002013#32, 0x0000707F#32, show ("SLTI", _, _) ∈ opcodeTable by decide,
    (mask_funct3 _ _ (by decide)).2 (by simp only [encode]; simp; decide)⟩

theorem sltiu (rd rs1 : RegIdx) (imm : BitVec 12) : Statement (.sltiu rd rs1 imm) :=
  ⟨0x00003013#32, 0x0000707F#32, show ("SLTIU", _, _) ∈ opcodeTable by decide,
    (mask_funct3 _ _ (by decide)).2 (by simp only [encode]; simp; decide)⟩

theorem xori (rd rs1 : RegIdx) (imm : BitVec 12) : Statement (.xori rd rs1 imm) :=
  ⟨0x00004013#32, 0x0000707F#32, show ("XORI", _, _) ∈ opcodeTable by decide,
    (mask_funct3 _ _ (by decide)).2 (by simp only [encode]; simp; decide)⟩

theorem ori (rd rs1 : RegIdx) (imm : BitVec 12) : Statement (.ori rd rs1 imm) :=
  ⟨0x00006013#32, 0x0000707F#32, show ("ORI", _, _) ∈ opcodeTable by decide,
    (mask_funct3 _ _ (by decide)).2 (by simp only [encode]; simp; decide)⟩

theorem andi (rd rs1 : RegIdx) (imm : BitVec 12) : Statement (.andi rd rs1 imm) :=
  ⟨0x00007013#32, 0x0000707F#32, show ("ANDI", _, _) ∈ opcodeTable by decide,
    (mask_funct3 _ _ (by decide)).2 (by simp only [encode]; simp; decide)⟩

theorem slli (rd rs1 : RegIdx) (shamt : BitVec 6) : Statement (.slli rd rs1 shamt) :=
  ⟨0x00001013#32, 0xFC00707F#32, show ("SLLI", _, _) ∈ opcodeTable by decide,
    (mask_shtype6 _ _ (by decide)).2 (by simp only [encode]; simp; decide)⟩

theorem srli (rd rs1 : RegIdx) (shamt : BitVec 6) : Statement (.srli rd rs1 shamt) :=
  ⟨0x00005013#32, 0xFC00707F#32, show ("SRLI", _, _) ∈ opcodeTable by decide,
    (mask_shtype6 _ _ (by decide)).2 (by simp only [encode]; simp; decide)⟩

theorem srai (rd rs1 : RegIdx) (shamt : BitVec 6) : Statement (.srai rd rs1 shamt) :=
  ⟨0x40005013#32, 0xFC00707F#32, show ("SRAI", _, _) ∈ opcodeTable by decide,
    (mask_shtype6 _ _ (by decide)).2 (by simp only [encode]; simp; decide)⟩

theorem add (rd rs1 rs2 : RegIdx) : Statement (.add rd rs1 rs2) :=
  ⟨0x00000033#32, 0xFE00707F#32, show ("ADD", _, _) ∈ opcodeTable by decide,
    (mask_funct7 _ _ (by decide)).2 (by simp only [encode]; simp; decide)⟩

theorem sub (rd rs1 rs2 : RegIdx) : Statement (.sub rd rs1 rs2) :=
  ⟨0x40000033#32, 0xFE00707F#32, show ("SUB", _, _) ∈ opcodeTable by decide,
    (mask_funct7 _ _ (by decide)).2 (by simp only [encode]; simp; decide)⟩

theorem sll (rd rs1 rs2 : RegIdx) : Statement (.sll rd rs1 rs2) :=
  ⟨0x00001033#32, 0xFE00707F#32, show ("SLL", _, _) ∈ opcodeTable by decide,
    (mask_funct7 _ _ (by decide)).2 (by simp only [encode]; simp; decide)⟩

theorem slt (rd rs1 rs2 : RegIdx) : Statement (.slt rd rs1 rs2) :=
  ⟨0x00002033#32, 0xFE00707F#32, show ("SLT", _, _) ∈ opcodeTable by decide,
    (mask_funct7 _ _ (by decide)).2 (by simp only [encode]; simp; decide)⟩

theorem sltu (rd rs1 rs2 : RegIdx) : Statement (.sltu rd rs1 rs2) :=
  ⟨0x00003033#32, 0xFE00707F#32, show ("SLTU", _, _) ∈ opcodeTable by decide,
    (mask_funct7 _ _ (by decide)).2 (by simp only [encode]; simp; decide)⟩

theorem xor (rd rs1 rs2 : RegIdx) : Statement (.xor rd rs1 rs2) :=
  ⟨0x00004033#32, 0xFE00707F#32, show ("XOR", _, _) ∈ opcodeTable by decide,
    (mask_funct7 _ _ (by decide)).2 (by simp only [encode]; simp; decide)⟩

theorem srl (rd rs1 rs2 : RegIdx) : Statement (.srl rd rs1 rs2) :=
  ⟨0x00005033#32, 0xFE00707F#32, show ("SRL", _, _) ∈ opcodeTable by decide,
    (mask_funct7 _ _ (by decide)).2 (by simp only [encode]; simp; decide)⟩

theorem sra (rd rs1 rs2 : RegIdx) : Statement (.sra rd rs1 rs2) :=
  ⟨0x40005033#32, 0xFE00707F#32, show ("SRA", _, _) ∈ opcodeTable by decide,
    (mask_funct7 _ _ (by decide)).2 (by simp only [encode]; simp; decide)⟩

theorem or (rd rs1 rs2 : RegIdx) : Statement (.or rd rs1 rs2) :=
  ⟨0x00006033#32, 0xFE00707F#32, show ("OR", _, _) ∈ opcodeTable by decide,
    (mask_funct7 _ _ (by decide)).2 (by simp only [encode]; simp; decide)⟩

theorem and (rd rs1 rs2 : RegIdx) : Statement (.and rd rs1 rs2) :=
  ⟨0x00007033#32, 0xFE00707F#32, show ("AND", _, _) ∈ opcodeTable by decide,
    (mask_funct7 _ _ (by decide)).2 (by simp only [encode]; simp; decide)⟩

theorem addiw (rd rs1 : RegIdx) (imm : BitVec 12) : Statement (.addiw rd rs1 imm) :=
  ⟨0x0000001B#32, 0x0000707F#32, show ("ADDIW", _, _) ∈ opcodeTable by decide,
    (mask_funct3 _ _ (by decide)).2 (by simp only [encode]; simp; decide)⟩

theorem slliw (rd rs1 : RegIdx) (shamt : BitVec 5) : Statement (.slliw rd rs1 shamt) :=
  ⟨0x0000101B#32, 0xFE00707F#32, show ("SLLIW", _, _) ∈ opcodeTable by decide,
    (mask_funct7 _ _ (by decide)).2 (by simp only [encode]; simp; decide)⟩

theorem srliw (rd rs1 : RegIdx) (shamt : BitVec 5) : Statement (.srliw rd rs1 shamt) :=
  ⟨0x0000501B#32, 0xFE00707F#32, show ("SRLIW", _, _) ∈ opcodeTable by decide,
    (mask_funct7 _ _ (by decide)).2 (by simp only [encode]; simp; decide)⟩

theorem sraiw (rd rs1 : RegIdx) (shamt : BitVec 5) : Statement (.sraiw rd rs1 shamt) :=
  ⟨0x4000501B#32, 0xFE00707F#32, show ("SRAIW", _, _) ∈ opcodeTable by decide,
    (mask_funct7 _ _ (by decide)).2 (by simp only [encode]; simp; decide)⟩

theorem addw (rd rs1 rs2 : RegIdx) : Statement (.addw rd rs1 rs2) :=
  ⟨0x0000003B#32, 0xFE00707F#32, show ("ADDW", _, _) ∈ opcodeTable by decide,
    (mask_funct7 _ _ (by decide)).2 (by simp only [encode]; simp; decide)⟩

theorem subw (rd rs1 rs2 : RegIdx) : Statement (.subw rd rs1 rs2) :=
  ⟨0x4000003B#32, 0xFE00707F#32, show ("SUBW", _, _) ∈ opcodeTable by decide,
    (mask_funct7 _ _ (by decide)).2 (by simp only [encode]; simp; decide)⟩

theorem sllw (rd rs1 rs2 : RegIdx) : Statement (.sllw rd rs1 rs2) :=
  ⟨0x0000103B#32, 0xFE00707F#32, show ("SLLW", _, _) ∈ opcodeTable by decide,
    (mask_funct7 _ _ (by decide)).2 (by simp only [encode]; simp; decide)⟩

theorem srlw (rd rs1 rs2 : RegIdx) : Statement (.srlw rd rs1 rs2) :=
  ⟨0x0000503B#32, 0xFE00707F#32, show ("SRLW", _, _) ∈ opcodeTable by decide,
    (mask_funct7 _ _ (by decide)).2 (by simp only [encode]; simp; decide)⟩

theorem sraw (rd rs1 rs2 : RegIdx) : Statement (.sraw rd rs1 rs2) :=
  ⟨0x4000503B#32, 0xFE00707F#32, show ("SRAW", _, _) ∈ opcodeTable by decide,
    (mask_funct7 _ _ (by decide)).2 (by simp only [encode]; simp; decide)⟩

theorem fence (fm pred succ : BitVec 4) (rs1 rd : RegIdx) : Statement (.fence fm pred succ rs1 rd) :=
  ⟨0x0000000F#32, 0x0000707F#32, show ("FENCE", _, _) ∈ opcodeTable by decide,
    (mask_funct3 _ _ (by decide)).2 (by simp only [encode]; simp; decide)⟩

end Sys2Proof.Laws.TableRow
end

