-- ==== Sys2Proof/Tests/Slice0.lean ====
section
/-! SUPPORT. The model's own tests. Expected values come from the spec: the words of the decode tests are written out field by
field from 30_encoding.md (R65 to R81), the steps and the illegal words are rows of 95_test_vectors.md, Part 3, the immediates its
Part 2. The last part shows, for each obligation with hypotheses, states and operands that meet them. -/

namespace Sys2Proof.Tests

open Sys2Proof.Machine Sys2Proof.Claims Sys2Proof.Safety

/-- A state with x1 = `a`, x2 = `b` and every other register 0. -/
def start (pc a b : Word) (mem : Memory) : State := (((State.reset.setX 1 a).setX 2 b).setPc pc).setMem mem

/-- Register `r` and the pc of a next state. -/
def regPc (r : RegIdx) : Result → Option (Word × Word)
  | .next t => some (t.x r, t.pc)
  | _ => none

/-- The `n` bytes at `a`, and the pc, of a next state whose memory lists nothing else. -/
def stored (n : Nat) (a : Addr) : Result → Option (BitVec (8 * n) × Word)
  | .next t => if t.mem = memWrite [] a n (memRead t.mem a n) then some (memRead t.mem a n, t.pc) else none
  | _ => none

def faultOf : Result → Option Fault
  | .fault f => some f
  | _ => none

/-- The memory image of 95_test_vectors.md, section 3.6. -/
def image : Memory :=
  [(0x2000, 0x11), (0x2001, 0x22), (0x2002, 0x33), (0x2003, 0x44), (0x2004, 0x55), (0x2005, 0x66), (0x2006, 0x77),
   (0x2007, 0x88), (0x2008, 0x80), (0x2009, 0x99), (0x200A, 0xAA), (0x200B, 0xBB), (0x200C, 0xCC), (0x200D, 0xDD),
   (0x200E, 0xEE), (0x200F, 0xFF)]

/-! Well-formedness: an ill-formed term for each check. -/

theorem test_wf_jal : (Instr.jal 1 0x100001).wellFormed = false ∧ (Instr.jal 1 0x100000).wellFormed = true := by decide
theorem test_wf_beq : (Instr.beq 1 2 0x1001).wellFormed = false ∧ (Instr.beq 1 2 0x1000).wellFormed = true := by decide
theorem test_wf_bne : (Instr.bne 1 2 3).wellFormed = false ∧ (Instr.bne 1 2 2).wellFormed = true := by decide
theorem test_wf_blt : (Instr.blt 1 2 (-1)).wellFormed = false ∧ (Instr.blt 1 2 (-2)).wellFormed = true := by decide
theorem test_wf_bge : (Instr.bge 1 2 1).wellFormed = false ∧ (Instr.bge 1 2 0).wellFormed = true := by decide
theorem test_wf_bltu : (Instr.bltu 1 2 4095).wellFormed = false ∧ (Instr.bltu 1 2 4094).wellFormed = true := by decide
theorem test_wf_bgeu : (Instr.bgeu 1 2 5).wellFormed = false ∧ (Instr.bgeu 1 2 4).wellFormed = true := by decide

/-! Decoding: one word for every constructor. -/

theorem test_decode_op_imm :
    decode (0b100000000000#12 ++ 0b00001#5 ++ 0b000#3 ++ 0b11111#5 ++ 0b0010011#7) = .ok (.addi 31 1 (-2048)) ∧
    decode (0b011111111111#12 ++ 0b10000#5 ++ 0b010#3 ++ 0b00001#5 ++ 0b0010011#7) = .ok (.slti 1 16 (2047)) ∧
    decode (0b111111111111#12 ++ 0b01010#5 ++ 0b011#3 ++ 0b00101#5 ++ 0b0010011#7) = .ok (.sltiu 5 10 (-1)) ∧
    decode (0b010101010101#12 ++ 0b11111#5 ++ 0b100#3 ++ 0b00010#5 ++ 0b0010011#7) = .ok (.xori 2 31 (1365)) ∧
    decode (0b101010101010#12 ++ 0b00001#5 ++ 0b110#3 ++ 0b11111#5 ++ 0b0010011#7) = .ok (.ori 31 1 (-1366)) ∧
    decode (0b000000000001#12 ++ 0b10000#5 ++ 0b111#3 ++ 0b00001#5 ++ 0b0010011#7) = .ok (.andi 1 16 (1)) := by decide

theorem test_decode_op_imm_shift :
    decode (0b000000#6 ++ 0b111111#6 ++ 0b00001#5 ++ 0b001#3 ++ 0b11111#5 ++ 0b0010011#7) = .ok (.slli 31 1 63) ∧
    decode (0b000000#6 ++ 0b100000#6 ++ 0b10000#5 ++ 0b101#3 ++ 0b00001#5 ++ 0b0010011#7) = .ok (.srli 1 16 32) ∧
    decode (0b010000#6 ++ 0b000001#6 ++ 0b01010#5 ++ 0b101#3 ++ 0b00101#5 ++ 0b0010011#7) = .ok (.srai 5 10 1) := by decide

theorem test_decode_op :
    decode (0b0000000#7 ++ 0b10000#5 ++ 0b00001#5 ++ 0b000#3 ++ 0b11111#5 ++ 0b0110011#7) = .ok (.add 31 1 16) ∧
    decode (0b0100000#7 ++ 0b11111#5 ++ 0b10000#5 ++ 0b000#3 ++ 0b00001#5 ++ 0b0110011#7) = .ok (.sub 1 16 31) ∧
    decode (0b0000000#7 ++ 0b10101#5 ++ 0b01010#5 ++ 0b001#3 ++ 0b00101#5 ++ 0b0110011#7) = .ok (.sll 5 10 21) ∧
    decode (0b0000000#7 ++ 0b01000#5 ++ 0b11111#5 ++ 0b010#3 ++ 0b00010#5 ++ 0b0110011#7) = .ok (.slt 2 31 8) ∧
    decode (0b0000000#7 ++ 0b10000#5 ++ 0b00001#5 ++ 0b011#3 ++ 0b11111#5 ++ 0b0110011#7) = .ok (.sltu 31 1 16) ∧
    decode (0b0000000#7 ++ 0b11111#5 ++ 0b10000#5 ++ 0b100#3 ++ 0b00001#5 ++ 0b0110011#7) = .ok (.xor 1 16 31) ∧
    decode (0b0000000#7 ++ 0b10101#5 ++ 0b01010#5 ++ 0b101#3 ++ 0b00101#5 ++ 0b0110011#7) = .ok (.srl 5 10 21) ∧
    decode (0b0100000#7 ++ 0b01000#5 ++ 0b11111#5 ++ 0b101#3 ++ 0b00010#5 ++ 0b0110011#7) = .ok (.sra 2 31 8) ∧
    decode (0b0000000#7 ++ 0b10000#5 ++ 0b00001#5 ++ 0b110#3 ++ 0b11111#5 ++ 0b0110011#7) = .ok (.or 31 1 16) ∧
    decode (0b0000000#7 ++ 0b11111#5 ++ 0b10000#5 ++ 0b111#3 ++ 0b00001#5 ++ 0b0110011#7) = .ok (.and 1 16 31) := by decide

theorem test_decode_op_imm_32 :
    decode (0b100000000000#12 ++ 0b00001#5 ++ 0b000#3 ++ 0b11111#5 ++ 0b0011011#7) = .ok (.addiw 31 1 (-2048)) := by decide

theorem test_decode_op_imm_32_shift :
    decode (0b0000000#7 ++ 0b11111#5 ++ 0b00001#5 ++ 0b001#3 ++ 0b11111#5 ++ 0b0011011#7) = .ok (.slliw 31 1 31) ∧
    decode (0b0000000#7 ++ 0b10000#5 ++ 0b10000#5 ++ 0b101#3 ++ 0b00001#5 ++ 0b0011011#7) = .ok (.srliw 1 16 16) ∧
    decode (0b0100000#7 ++ 0b00001#5 ++ 0b01010#5 ++ 0b101#3 ++ 0b00101#5 ++ 0b0011011#7) = .ok (.sraiw 5 10 1) := by decide

theorem test_decode_op_32 :
    decode (0b0000000#7 ++ 0b10000#5 ++ 0b00001#5 ++ 0b000#3 ++ 0b11111#5 ++ 0b0111011#7) = .ok (.addw 31 1 16) ∧
    decode (0b0100000#7 ++ 0b11111#5 ++ 0b10000#5 ++ 0b000#3 ++ 0b00001#5 ++ 0b0111011#7) = .ok (.subw 1 16 31) ∧
    decode (0b0000000#7 ++ 0b10101#5 ++ 0b01010#5 ++ 0b001#3 ++ 0b00101#5 ++ 0b0111011#7) = .ok (.sllw 5 10 21) ∧
    decode (0b0000000#7 ++ 0b01000#5 ++ 0b11111#5 ++ 0b101#3 ++ 0b00010#5 ++ 0b0111011#7) = .ok (.srlw 2 31 8) ∧
    decode (0b0100000#7 ++ 0b10000#5 ++ 0b00001#5 ++ 0b101#3 ++ 0b11111#5 ++ 0b0111011#7) = .ok (.sraw 31 1 16) := by decide

theorem test_decode_jalr :
    decode (0b100000000000#12 ++ 0b00001#5 ++ 0b000#3 ++ 0b11111#5 ++ 0b1100111#7) = .ok (.jalr 31 1 (-2048)) := by decide

theorem test_decode_branch :
    decode (0b1#1 ++ 0b000000#6 ++ 0b10000#5 ++ 0b00001#5 ++ 0b000#3 ++ 0b0000#4 ++ 0b0#1 ++ 0b1100011#7) = .ok (.beq 1 16 (-4096)) ∧
    decode (0b0#1 ++ 0b111111#6 ++ 0b11111#5 ++ 0b10000#5 ++ 0b001#3 ++ 0b1111#4 ++ 0b1#1 ++ 0b1100011#7) = .ok (.bne 16 31 (4094)) ∧
    decode (0b1#1 ++ 0b111111#6 ++ 0b10101#5 ++ 0b01010#5 ++ 0b100#3 ++ 0b1111#4 ++ 0b1#1 ++ 0b1100011#7) = .ok (.blt 10 21 (-2)) ∧
    decode (0b0#1 ++ 0b000000#6 ++ 0b01000#5 ++ 0b11111#5 ++ 0b101#3 ++ 0b0000#4 ++ 0b1#1 ++ 0b1100011#7) = .ok (.bge 31 8 (2048)) ∧
    decode (0b0#1 ++ 0b101010#6 ++ 0b10000#5 ++ 0b00001#5 ++ 0b110#3 ++ 0b1010#4 ++ 0b0#1 ++ 0b1100011#7) = .ok (.bltu 1 16 (1364)) ∧
    decode (0b1#1 ++ 0b010101#6 ++ 0b11111#5 ++ 0b10000#5 ++ 0b111#3 ++ 0b0101#4 ++ 0b1#1 ++ 0b1100011#7) = .ok (.bgeu 16 31 (-1366)) := by decide

theorem test_decode_load :
    decode (0b100000000000#12 ++ 0b00001#5 ++ 0b000#3 ++ 0b11111#5 ++ 0b0000011#7) = .ok (.lb 31 1 (-2048)) ∧
    decode (0b011111111111#12 ++ 0b10000#5 ++ 0b001#3 ++ 0b00001#5 ++ 0b0000011#7) = .ok (.lh 1 16 (2047)) ∧
    decode (0b111111111111#12 ++ 0b01010#5 ++ 0b010#3 ++ 0b00101#5 ++ 0b0000011#7) = .ok (.lw 5 10 (-1)) ∧
    decode (0b010101010101#12 ++ 0b11111#5 ++ 0b011#3 ++ 0b00010#5 ++ 0b0000011#7) = .ok (.ld 2 31 (1365)) ∧
    decode (0b101010101010#12 ++ 0b00001#5 ++ 0b100#3 ++ 0b11111#5 ++ 0b0000011#7) = .ok (.lbu 31 1 (-1366)) ∧
    decode (0b000000000001#12 ++ 0b10000#5 ++ 0b101#3 ++ 0b00001#5 ++ 0b0000011#7) = .ok (.lhu 1 16 (1)) ∧
    decode (0b000100100011#12 ++ 0b01010#5 ++ 0b110#3 ++ 0b00101#5 ++ 0b0000011#7) = .ok (.lwu 5 10 (291)) := by decide

theorem test_decode_store :
    decode (0b1000000#7 ++ 0b10000#5 ++ 0b00001#5 ++ 0b000#3 ++ 0b00000#5 ++ 0b0100011#7) = .ok (.sb 1 16 (-2048)) ∧
    decode (0b0111111#7 ++ 0b11111#5 ++ 0b10000#5 ++ 0b001#3 ++ 0b11111#5 ++ 0b0100011#7) = .ok (.sh 16 31 (2047)) ∧
    decode (0b1111111#7 ++ 0b10101#5 ++ 0b01010#5 ++ 0b010#3 ++ 0b11111#5 ++ 0b0100011#7) = .ok (.sw 10 21 (-1)) ∧
    decode (0b0101010#7 ++ 0b01000#5 ++ 0b11111#5 ++ 0b011#3 ++ 0b10101#5 ++ 0b0100011#7) = .ok (.sd 31 8 (1365)) := by decide

theorem test_decode_upper :
    decode (0b10000000000000000001#20 ++ 0b11111#5 ++ 0b0110111#7) = .ok (.lui 31 0x80001) ∧
    decode (0b00010010001101000101#20 ++ 0b00001#5 ++ 0b0010111#7) = .ok (.auipc 1 0x12345) := by decide

theorem test_decode_jal :
    decode (0b1#1 ++ 0b0000000000#10 ++ 0b0#1 ++ 0b00000000#8 ++ 0b11111#5 ++ 0b1101111#7) = .ok (.jal 31 (-1048576)) ∧
    decode (0b0#1 ++ 0b1111111111#10 ++ 0b1#1 ++ 0b11111111#8 ++ 0b00001#5 ++ 0b1101111#7) = .ok (.jal 1 (1048574)) ∧
    decode (0b0#1 ++ 0b0000000000#10 ++ 0b1#1 ++ 0b00000000#8 ++ 0b00000#5 ++ 0b1101111#7) = .ok (.jal 0 (2048)) ∧
    decode (0b1#1 ++ 0b0101010101#10 ++ 0b1#1 ++ 0b10101010#8 ++ 0b00101#5 ++ 0b1101111#7) = .ok (.jal 5 (-349526)) := by decide

theorem test_decode_fence :
    decode (0b1000#4 ++ 0b0011#4 ++ 0b1100#4 ++ 0b10001#5 ++ 0b000#3 ++ 0b00110#5 ++ 0b0001111#7) = .ok (.fence 8 3 12 17 6) := by decide

/-- Bytes in memory order; fewer than four are refused by name, more are left over (D1, R60). -/
theorem test_decode_bytes :
    decodeBytes [0x93, 0x02, 0xA0, 0x02, 0xFF] = .ok (.addi 5 0 42, [0xFF]) ∧
    decodeBytes [0x93, 0x02, 0xA0] = .error .truncated ∧ decodeBytes [0, 0, 0, 0] = .error .unmatchedOpcode ∧
    decodeTableWord 32 0x02A00293 = some (.addi 5 0 42) ∧ decodeTableWord 32 0x00000073 = none := by decide

/-- 95_test_vectors.md, section 2.1: all five immediates of one word. -/
def immediates (w : InstrWord) : List Word := [immI w, immS w, immB w, immU w, immJ w]

theorem test_immediates :
    immediates 0xFFFFFFFF =
      [0xFFFFFFFFFFFFFFFF, 0xFFFFFFFFFFFFFFFF, 0xFFFFFFFFFFFFFFFE, 0xFFFFFFFFFFFFF000, 0xFFFFFFFFFFFFFFFE] ∧
    immediates 0x80000000 =
      [0xFFFFFFFFFFFFF800, 0xFFFFFFFFFFFFF800, 0xFFFFFFFFFFFFF000, 0xFFFFFFFF80000000, 0xFFFFFFFFFFF00000] ∧
    immediates 0x7FFFFFFF = [0x7FF, 0x7FF, 0xFFE, 0x7FFFF000, 0xFFFFE] ∧
    immediates 0xAAAAAAAA =
      [0xFFFFFFFFFFFFFAAA, 0xFFFFFFFFFFFFFAB5, 0xFFFFFFFFFFFFFAB4, 0xFFFFFFFFAAAAA000, 0xFFFFFFFFFFFAA2AA] ∧
    immediates 0x55555555 = [0x555, 0x54A, 0x54A, 0x55555000, 0x55D54] ∧
    immediates 0x00100000 = [1, 0, 0, 0x100000, 0x800] ∧ immediates 0x00000080 = [0, 1, 0x800, 0, 0] := by decide

/-! One step: at most two rows of 95_test_vectors.md, Part 3, for every instruction. -/

theorem test_lui_a : regPc 5 (execute 0x800002B7 (start 0x1000 0x0 0x0 [])) = some (0xFFFFFFFF80000000, 0x1004) := by decide
theorem test_lui_b : regPc 0 (execute 0x12345037 (start 0x1000 0x0 0x0 [])) = some (0x0, 0x1004) := by decide
theorem test_auipc_a : regPc 5 (execute 0x80000297 (start 0x1000 0x0 0x0 [])) = some (0xFFFFFFFF80001000, 0x1004) := by decide
theorem test_auipc_b : regPc 5 (execute 0xFFFFF297 (start 0x1000 0x0 0x0 [])) = some (0x0, 0x1004) := by decide
theorem test_jal_a : regPc 1 (execute 0xFFDFF0EF (start 0x1000 0x55 0x0 [])) = some (0x1004, 0xFFC) := by decide
theorem test_jal_b : regPc 1 (execute 0x004000EF (start 0xFFFFFFFFFFFFFFFC 0x0 0x0 [])) = some (0x0, 0x0) := by decide
theorem test_jalr_a : regPc 1 (execute 0x000080E7 (start 0x1000 0x2000 0x0 [])) = some (0x1004, 0x2000) := by decide
theorem test_jalr_b : faultOf (execute 0x000082E7 (start 0x1000 0x2002 0x0 [])) = some .instructionAddressMisaligned := by decide
theorem test_beq_a : regPc 1 (execute 0x00208863 (start 0x1000 0x5 0x5 [])) = some (0x5, 0x1010) := by decide
theorem test_beq_b : faultOf (execute 0x00208163 (start 0x1000 0x5 0x5 [])) = some .instructionAddressMisaligned := by decide
theorem test_bne_a : regPc 1 (execute 0x00209463 (start 0x1000 0x5 0x6 [])) = some (0x5, 0x1008) := by decide
theorem test_bne_b : regPc 1 (execute 0x00209463 (start 0x1000 0x5 0x5 [])) = some (0x5, 0x1004) := by decide
theorem test_blt_a : regPc 1 (execute 0x0020C463 (start 0x1000 0x8000000000000000 0x7FFFFFFFFFFFFFFF [])) = some (0x8000000000000000, 0x1008) := by decide
theorem test_blt_b : regPc 1 (execute 0x0020C463 (start 0x1000 0x0 0xFFFFFFFFFFFFFFFF [])) = some (0x0, 0x1004) := by decide
theorem test_bge_a : regPc 1 (execute 0x0020D463 (start 0x1000 0x7 0x7 [])) = some (0x7, 0x1008) := by decide
theorem test_bge_b : regPc 1 (execute 0x0020D463 (start 0x1000 0xFFFFFFFFFFFFFFFF 0x0 [])) = some (0xFFFFFFFFFFFFFFFF, 0x1004) := by decide
theorem test_bltu_a : regPc 1 (execute 0x0020E463 (start 0x1000 0x0 0xFFFFFFFFFFFFFFFF [])) = some (0x0, 0x1008) := by decide
theorem test_bltu_b : regPc 1 (execute 0x0020E463 (start 0x1000 0xFFFFFFFFFFFFFFFF 0x0 [])) = some (0xFFFFFFFFFFFFFFFF, 0x1004) := by decide
theorem test_bgeu_a : regPc 1 (execute 0x0020F463 (start 0x1000 0x0 0xFFFFFFFFFFFFFFFF [])) = some (0x0, 0x1004) := by decide
theorem test_bgeu_b : regPc 1 (execute 0x0020F463 (start 0x1000 0x7 0x7 [])) = some (0x7, 0x1008) := by decide
theorem test_lb_a : regPc 3 (execute 0x00808183 (start 0x1000 0x2000 0x0 image)) = some (0xFFFFFFFFFFFFFF80, 0x1004) := by decide
theorem test_lb_b : regPc 3 (execute 0x80008183 (start 0x1000 0x2800 0x0 image)) = some (0x11, 0x1004) := by decide
theorem test_lh_a : regPc 3 (execute 0x00809183 (start 0x1000 0x2000 0x0 image)) = some (0xFFFFFFFFFFFF9980, 0x1004) := by decide
theorem test_lh_b : regPc 3 (execute 0x00109183 (start 0x1000 0x2000 0x0 image)) = some (0x3322, 0x1004) := by decide
theorem test_lw_a : regPc 3 (execute 0x0040A183 (start 0x1000 0x2000 0x0 image)) = some (0xFFFFFFFF88776655, 0x1004) := by decide
theorem test_lw_b : regPc 0 (execute 0x0000A003 (start 0x1000 0x2000 0x0 image)) = some (0x0, 0x1004) := by decide
theorem test_ld_a : regPc 3 (execute 0x0040B183 (start 0x1000 0x2000 0x0 image)) = some (0xBBAA998088776655, 0x1004) := by decide
theorem test_ld_b : regPc 1 (execute 0x0000B083 (start 0x1000 0x2000 0x0 image)) = some (0x8877665544332211, 0x1004) := by decide
theorem test_lbu_a : regPc 3 (execute 0x0080C183 (start 0x1000 0x2000 0x0 image)) = some (0x80, 0x1004) := by decide
theorem test_lbu_b : regPc 3 (execute 0xFFF04183 (start 0x1000 0x0 0x0 image)) = some (0x0, 0x1004) := by decide
theorem test_lhu_a : regPc 3 (execute 0x0080D183 (start 0x1000 0x2000 0x0 image)) = some (0x9980, 0x1004) := by decide
theorem test_lwu_a : regPc 3 (execute 0x0040E183 (start 0x1000 0x2000 0x0 image)) = some (0x88776655, 0x1004) := by decide
theorem test_sb_a : stored 1 0x3000 (execute 0x00208023 (start 0x1000 0x3000 0x1122334455667788 [])) = some (0x88, 0x1004) := by decide
theorem test_sb_b : stored 1 0x3000 (execute 0x80208023 (start 0x1000 0x3800 0xAB [])) = some (0xAB, 0x1004) := by decide
theorem test_sh_a : stored 2 0x3002 (execute 0x00209123 (start 0x1000 0x3000 0x1122334455667788 [])) = some (0x7788, 0x1004) := by decide
theorem test_sh_b : stored 2 0x37FF (execute 0x7E209FA3 (start 0x1000 0x3000 0xBEEF [])) = some (0xBEEF, 0x1004) := by decide
theorem test_sw_a : stored 4 0x3004 (execute 0x0020A223 (start 0x1000 0x3000 0x1122334455667788 [])) = some (0x55667788, 0x1004) := by decide
theorem test_sw_b : stored 4 0x3001 (execute 0x0020A0A3 (start 0x1000 0x3000 0xFFFFFFFF80000001 [])) = some (0x80000001, 0x1004) := by decide
theorem test_sd_a : stored 8 0x2FF8 (execute 0xFE20BC23 (start 0x1000 0x3000 0x1122334455667788 [])) = some (0x1122334455667788, 0x1004) := by decide
theorem test_sd_b : stored 8 0xFFFFFFFFFFFFFFF8 (execute 0xFE203C23 (start 0x1000 0x0 0x102030405060708 [])) = some (0x102030405060708, 0x1004) := by decide
theorem test_addi_a : regPc 1 (execute 0x00110093 (start 0x1000 0x0 0xFFFFFFFFFFFFFFFF [])) = some (0x0, 0x1004) := by decide
theorem test_addi_b : regPc 0 (execute 0x00508013 (start 0x1000 0x7 0x0 [])) = some (0x0, 0x1004) := by decide
theorem test_slti_a : regPc 3 (execute 0x8000A193 (start 0x1000 0x8000000000000000 0x0 [])) = some (0x1, 0x1004) := by decide
theorem test_slti_b : regPc 3 (execute 0x0050A193 (start 0x1000 0x5 0x0 [])) = some (0x0, 0x1004) := by decide
theorem test_sltiu_a : regPc 3 (execute 0xFFF0B193 (start 0x1000 0x5 0x0 [])) = some (0x1, 0x1004) := by decide
theorem test_sltiu_b : regPc 3 (execute 0xFFF0B193 (start 0x1000 0xFFFFFFFFFFFFFFFF 0x0 [])) = some (0x0, 0x1004) := by decide
theorem test_xori_a : regPc 3 (execute 0xFFF0C193 (start 0x1000 0x123456789ABCDEF 0x0 [])) = some (0xFEDCBA9876543210, 0x1004) := by decide
theorem test_ori_a : regPc 3 (execute 0x8000E193 (start 0x1000 0xFF 0x0 [])) = some (0xFFFFFFFFFFFFF8FF, 0x1004) := by decide
theorem test_andi_a : regPc 3 (execute 0xFF00F193 (start 0x1000 0x123456789ABCDEFF 0x0 [])) = some (0x123456789ABCDEF0, 0x1004) := by decide
theorem test_slli_a : regPc 3 (execute 0x03F09193 (start 0x1000 0x3 0x0 [])) = some (0x8000000000000000, 0x1004) := by decide
theorem test_slli_b : regPc 3 (execute 0x02009193 (start 0x1000 0xFFFFFFFF 0x0 [])) = some (0xFFFFFFFF00000000, 0x1004) := by decide
theorem test_srli_a : regPc 3 (execute 0x03F0D193 (start 0x1000 0x8000000000000000 0x0 [])) = some (0x1, 0x1004) := by decide
theorem test_srli_b : regPc 3 (execute 0x0200D193 (start 0x1000 0xFFFFFFFF00000000 0x0 [])) = some (0xFFFFFFFF, 0x1004) := by decide
theorem test_srai_a : regPc 3 (execute 0x4040D193 (start 0x1000 0x8000000000000000 0x0 [])) = some (0xF800000000000000, 0x1004) := by decide
theorem test_srai_b : regPc 3 (execute 0x43F0D193 (start 0x1000 0x7FFFFFFFFFFFFFFF 0x0 [])) = some (0x0, 0x1004) := by decide
theorem test_add_a : regPc 3 (execute 0x002081B3 (start 0x1000 0x7FFFFFFFFFFFFFFF 0x1 [])) = some (0x8000000000000000, 0x1004) := by decide
theorem test_add_b : regPc 1 (execute 0x001080B3 (start 0x1000 0x8000000000000000 0x0 [])) = some (0x0, 0x1004) := by decide
theorem test_sub_a : regPc 3 (execute 0x402081B3 (start 0x1000 0x3 0xA [])) = some (0xFFFFFFFFFFFFFFF9, 0x1004) := by decide
theorem test_sub_b : regPc 3 (execute 0x402001B3 (start 0x1000 0x0 0x8000000000000000 [])) = some (0x8000000000000000, 0x1004) := by decide
theorem test_sll_a : regPc 3 (execute 0x002091B3 (start 0x1000 0x1 0x40 [])) = some (0x1, 0x1004) := by decide
theorem test_sll_b : regPc 3 (execute 0x002091B3 (start 0x1000 0x1 0xFFFFFFFFFFFFFFC1 [])) = some (0x2, 0x1004) := by decide
theorem test_slt_a : regPc 3 (execute 0x0020A1B3 (start 0x1000 0x8000000000000000 0x7FFFFFFFFFFFFFFF [])) = some (0x1, 0x1004) := by decide
theorem test_slt_b : regPc 3 (execute 0x0020A1B3 (start 0x1000 0x0 0xFFFFFFFFFFFFFFFF [])) = some (0x0, 0x1004) := by decide
theorem test_sltu_a : regPc 3 (execute 0x0020B1B3 (start 0x1000 0xFFFFFFFFFFFFFFFF 0x0 [])) = some (0x0, 0x1004) := by decide
theorem test_sltu_b : regPc 3 (execute 0x0020B1B3 (start 0x1000 0x0 0xFFFFFFFFFFFFFFFF [])) = some (0x1, 0x1004) := by decide
theorem test_xor_a : regPc 3 (execute 0x0020C1B3 (start 0x1000 0xFF00FF00FF00FF00 0xFF00FF00FF00FF0 [])) = some (0xF0F0F0F0F0F0F0F0, 0x1004) := by decide
theorem test_srl_a : regPc 3 (execute 0x0020D1B3 (start 0x1000 0x8000000000000000 0x7F [])) = some (0x1, 0x1004) := by decide
theorem test_srl_b : regPc 3 (execute 0x0020D1B3 (start 0x1000 0xFFFFFFFFFFFFFFFF 0x44 [])) = some (0xFFFFFFFFFFFFFFF, 0x1004) := by decide
theorem test_sra_a : regPc 3 (execute 0x4020D1B3 (start 0x1000 0x8000000000000000 0x3F [])) = some (0xFFFFFFFFFFFFFFFF, 0x1004) := by decide
theorem test_sra_b : regPc 3 (execute 0x4020D1B3 (start 0x1000 0xFFFFFFFFFFFFFFFF 0x1000000004 [])) = some (0xFFFFFFFFFFFFFFFF, 0x1004) := by decide
theorem test_or_a : regPc 3 (execute 0x0020E1B3 (start 0x1000 0xFF00FF00FF00FF00 0xFF00FF00FF00FF0 [])) = some (0xFFF0FFF0FFF0FFF0, 0x1004) := by decide
theorem test_and_a : regPc 3 (execute 0x0020F1B3 (start 0x1000 0xFF00FF00FF00FF00 0xFF00FF00FF00FF0 [])) = some (0xF000F000F000F00, 0x1004) := by decide
theorem test_addiw_a : regPc 3 (execute 0x0010819B (start 0x1000 0x7FFFFFFF 0x0 [])) = some (0xFFFFFFFF80000000, 0x1004) := by decide
theorem test_addiw_b : regPc 3 (execute 0x0000819B (start 0x1000 0x123456789ABCDEF0 0x0 [])) = some (0xFFFFFFFF9ABCDEF0, 0x1004) := by decide
theorem test_slliw_a : regPc 3 (execute 0x01F0919B (start 0x1000 0x1 0x0 [])) = some (0xFFFFFFFF80000000, 0x1004) := by decide
theorem test_slliw_b : regPc 3 (execute 0x0010919B (start 0x1000 0xFFFFFFFF40000000 0x0 [])) = some (0xFFFFFFFF80000000, 0x1004) := by decide
theorem test_srliw_a : regPc 3 (execute 0x0000D19B (start 0x1000 0x80000000 0x0 [])) = some (0xFFFFFFFF80000000, 0x1004) := by decide
theorem test_srliw_b : regPc 3 (execute 0x0010D19B (start 0x1000 0xFFFFFFFF80000000 0x0 [])) = some (0x40000000, 0x1004) := by decide
theorem test_sraiw_a : regPc 3 (execute 0x41F0D19B (start 0x1000 0x80000000 0x0 [])) = some (0xFFFFFFFFFFFFFFFF, 0x1004) := by decide
theorem test_sraiw_b : regPc 3 (execute 0x4040D19B (start 0x1000 0xFFFFFFFF7FFFFFFF 0x0 [])) = some (0x7FFFFFF, 0x1004) := by decide
theorem test_addw_a : regPc 3 (execute 0x002081BB (start 0x1000 0x7FFFFFFF 0x1 [])) = some (0xFFFFFFFF80000000, 0x1004) := by decide
theorem test_addw_b : regPc 3 (execute 0x002081BB (start 0x1000 0x1111111180000000 0x2222222280000000 [])) = some (0x0, 0x1004) := by decide
theorem test_subw_a : regPc 3 (execute 0x402081BB (start 0x1000 0x0 0x1 [])) = some (0xFFFFFFFFFFFFFFFF, 0x1004) := by decide
theorem test_subw_b : regPc 3 (execute 0x402081BB (start 0x1000 0x500000003 0x900000003 [])) = some (0x0, 0x1004) := by decide
theorem test_sllw_a : regPc 3 (execute 0x002091BB (start 0x1000 0x1 0x20 [])) = some (0x1, 0x1004) := by decide
theorem test_sllw_b : regPc 3 (execute 0x002091BB (start 0x1000 0xFFFFFFFF 0x21 [])) = some (0xFFFFFFFFFFFFFFFE, 0x1004) := by decide
theorem test_srlw_a : regPc 3 (execute 0x0020D1BB (start 0x1000 0xFFFFFFFF80000000 0x0 [])) = some (0xFFFFFFFF80000000, 0x1004) := by decide
theorem test_srlw_b : regPc 3 (execute 0x0020D1BB (start 0x1000 0xFFFFFFFFFFFFFFFF 0x24 [])) = some (0xFFFFFFF, 0x1004) := by decide
theorem test_sraw_a : regPc 3 (execute 0x4020D1BB (start 0x1000 0x80000000 0x1F [])) = some (0xFFFFFFFFFFFFFFFF, 0x1004) := by decide
theorem test_sraw_b : regPc 3 (execute 0x4020D1BB (start 0x1000 0xFFFFFFFF7FFFFFFF 0x4 [])) = some (0x7FFFFFF, 0x1004) := by decide
theorem test_fence_a : regPc 1 (execute 0x0FF0000F (start 0x1000 0x5 0x0 [])) = some (0x5, 0x1004) := by decide

theorem test_illegal_words_1 :
    [0x04009193#32, 0x4400D193#32, 0x8000D193#32, 0x40009193#32, 0x022081B3#32, 0x422081B3#32,
     0x802081B3#32, 0x402091B3#32, 0x4020F1B3#32, 0xFE2081B3#32, 0x0200909B#32, 0x0200D09B#32].all
      (fun w => faultOf (execute w (start 0x1000 0x2002 0x3 [])) = some .illegalInstruction) = true := by decide

theorem test_illegal_words_2 :
    [0x4200D09B#32, 0x0000A09B#32, 0x0000C09B#32, 0x4000909B#32, 0x022081BB#32, 0x0020A1BB#32,
     0x0020C1BB#32, 0x402091BB#32, 0x00009067#32, 0x0000F2E7#32, 0x0020A463#32, 0x0020B163#32].all
      (fun w => faultOf (execute w (start 0x1000 0x2002 0x3 [])) = some .illegalInstruction) = true := by decide

theorem test_illegal_words_3 :
    [0x0000F183#32, 0x0020C023#32, 0x0020F023#32, 0x0000100F#32, 0x0000200F#32, 0x00000073#32,
     0x00100073#32, 0x30200073#32, 0x10500073#32, 0xC0002573#32, 0x34029073#32, 0x00000000#32].all
      (fun w => faultOf (execute w (start 0x1000 0x2002 0x3 [])) = some .illegalInstruction) = true := by decide

theorem test_illegal_words_4 :
    [0xFFFFFFFF#32, 0x00000001#32, 0x00004501#32, 0x00000002#32, 0x00000007#32, 0x0000002F#32,
     0x00000053#32, 0x0000000B#32, 0x0000007F#32, 0x00000057#32].all
      (fun w => faultOf (execute w (start 0x1000 0x2002 0x3 [])) = some .illegalInstruction) = true := by decide

/-! From reset: nothing placed is an illegal word (log entry 7), and a placed word runs. -/

theorem test_reset_step : faultOf (step State.reset) = some .illegalInstruction := by decide
theorem test_placed_step : regPc 5 (step (State.reset.withFetchWord 32 0x02A00293)) = some (42, 4) := by decide

/-! The bus operations of R44: a load to x0 issues its own (D14), an ALU instruction none. -/

theorem test_bus_request :
    busRequest (.lw 0 1 0) (start 0 0x2000 0 []) = some (.load .word 0x2000) ∧
    busRequest (.sh 1 2 2) (start 0 0x3000 0x1122334455667788 []) = some (.store .half 0x3002 0x7788) ∧
    busRequest (.add 3 1 2) (start 0 1 2 []) = none := by decide

/-- Two stores and two removals keep the one canonical form: equal memories are equal data. -/
theorem test_memory_canonical :
    setByte (setByte [] 9 1) 5 2 = [(5, 2), (9, 1)] ∧ setByte (setByte [] 5 2) 9 1 = [(5, 2), (9, 1)] ∧
    setByte [(5, 2), (9, 1)] 5 0 = [(9, 1)] ∧ Memory.wf [(5, 2), (9, 1)] = true ∧ Memory.wf [(9, 1), (5, 2)] = false ∧
    Memory.wf [(5, 0)] = false ∧ Memory.wf [(5, 1), (5, 2)] = false ∧ Memory.wf [(2 ^ 64, 1)] = false := by decide

/-! Witnesses: the hypotheses of each obligation are met, clause by clause, at a boundary where there is one. -/

/-- O1: a loader's values that keep R251's premise. -/
theorem test_witness_first_state :
    (0xFFFFFFFFFFFFFFFC : Word).toNat % 4 = 0 ∧ Memory.wf [(0, 1), (2 ^ 64 - 1, 0xFF)] = true := by decide

/-- O3: a step that completes; a register written, and another one read. -/
theorem test_witness_register_zero :
    (∃ t, step (State.reset.withFetchWord 32 0x00000013) = .next t) ∧ (31 : RegIdx) ≠ 0 ∧ (1 : RegIdx) ≠ 31 :=
  ⟨⟨_, rfl⟩, by decide, by decide⟩

/-- O5: the bit positions where the clauses meet, on a word that tells them apart. -/
theorem test_witness_immediate_bits :
    (immS 0x00000080).getLsbD 0 = true ∧ (immS 0x02000000).getLsbD 5 = true ∧ (immB 0x00000080).getLsbD 11 = true ∧
    (immB 0x80000000).getLsbD 12 = true ∧ (immJ 0x00100000).getLsbD 11 = true ∧ (immJ 0x00001000).getLsbD 12 = true ∧
    (immJ 0x80000000).getLsbD 20 = true ∧ (immU 0x00001000).getLsbD 12 = true ∧ (immI 0x80000000).getLsbD 63 = true := by decide

/-- O6: each clause at both ends of its range, met by a word. -/
theorem test_witness_round_trip :
    ((-2048 : Word).toInt = -2048 ∧ immI 0x80000013 = -2048) ∧ ((2047 : Word).toInt = 2047 ∧ immI 0x7FF00013 = 2047) ∧
    immS 0x80000023 = -2048 ∧ immS 0x7E000FA3 = 2047 ∧
    ((-4096 : Word).toInt % 2 = 0 ∧ immB 0x80000063 = -4096) ∧ immB 0x7E000FE3 = 4094 ∧
    ((-2147483648 : Word).toInt % 4096 = 0 ∧ immU 0x80000037 = -2147483648) ∧ immU 0x7FFFF037 = 2147479552 ∧
    ((-1048576 : Word).toInt % 2 = 0 ∧ immJ 0x8000006F = -1048576) ∧ immJ 0x7FFFF06F = 1048574 := by decide

/-- O7: the ends of the widths and of the amounts. -/
theorem test_witness_primitives :
    sext (1 : BitVec 1) = -1 ∧ sext (0x8000000000000000 : BitVec 64) = 0x8000000000000000 ∧
    shiftRightArith (-1 : Word) 63 = -1 ∧ shiftRightArith (-1 : Word) 0 = -1 ∧
    shiftRightArith (0x80000000 : BitVec 32) 31 = -1 := by decide

/-- O8: well-formed instructions at the ends of their operands. -/
theorem test_witness_well_formed :
    (Instr.beq 31 0 (-4096)).wellFormed = true ∧ (Instr.jal 31 (-1048576)).wellFormed = true ∧
    (Instr.fence 15 15 15 31 31).wellFormed = true := by decide

/-- O9, O10: words that decode, at the ends of their row; a word that matches no row. -/
theorem test_witness_rows :
    decode 0x00000003 = .ok (.lb 0 0 0) ∧ decode 0xFFFF8F8F = .ok (.fence 15 15 15 31 31) ∧
    ("FENCE", 0x0000000F#32, 0x0000707F#32) ∈ opcodeTable ∧
    (∀ p ∈ opcodeTable, 0x00000073#32 &&& p.2.2 ≠ p.2.1) := by decide

/-- O13: shift types just outside the legal ones. -/
theorem test_witness_shift_type :
    (opcodeNum 0x04009193 = 0x13 ∧ funct3Num 0x04009193 = 1 ∧ shtype6Num 0x04009193 ≠ 0) ∧
    (opcodeNum 0x4400D193 = 0x13 ∧ funct3Num 0x4400D193 = 5 ∧ shtype6Num 0x4400D193 ≠ 0 ∧ shtype6Num 0x4400D193 ≠ 0x10) := by
  decide

/-- O16: a word for each of the five clauses. -/
theorem test_witness_unmatched_pairs :
    (opcodeNum 0x022081B3 = 0x33 ∧ funct7Num 0x022081B3 ≠ 0 ∧ funct7Num 0x022081B3 ≠ 0x20) ∧
    (opcodeNum 0x4020F1B3 = 0x33 ∧ funct7Num 0x4020F1B3 = 0x20 ∧ funct3Num 0x4020F1B3 ∈ [1, 2, 3, 4, 6, 7]) ∧
    (opcodeNum 0x0020A1BB = 0x3B ∧ funct3Num 0x0020A1BB ∈ [2, 3, 4, 6, 7]) ∧
    (opcodeNum 0x402091BB = 0x3B ∧ funct3Num 0x402091BB = 1 ∧ funct7Num 0x402091BB ≠ 0) ∧
    (opcodeNum 0x4220D1BB = 0x3B ∧ funct3Num 0x4220D1BB = 5 ∧ funct7Num 0x4220D1BB ≠ 0 ∧ funct7Num 0x4220D1BB ≠ 0x20) := by
  decide

/-- O19: a word instruction, and two states that differ above bit 31 of its sources only. -/
theorem test_witness_word_instructions :
    isWordInstr (.srlw 3 1 2) = true ∧ destination (.srlw 3 1 2) = some 3 ∧ (3 : RegIdx) ≠ 0 ∧
    (∀ r ∈ sources (.srlw 3 1 2), low32 ((start 0 0x80000000 0 []).x r) = low32 ((start 0 0xFFFFFFFF80000000 0x500000000 []).x r)) ∧
    (start 0 0x80000000 0 []).x 1 ≠ (start 0 0xFFFFFFFF80000000 0x500000000 []).x 1 := by decide

/-- O20 to O22: an aligned and a misaligned target for JAL, JALR and a taken branch, and the premise on the offset. -/
theorem test_witness_targets :
    (relTarget (start 0x1000 0 0 []) (-4 : BitVec 21)).toNat % 4 = 0 ∧
    (relTarget (start 0x1000 0 0 []) (2 : BitVec 21)).toNat % 4 ≠ 0 ∧
    (evenOffset (2 : BitVec 21) = true ∧ (start 0x1000 0 0 []).pc.toNat % 4 = 0 ∧ (2 : BitVec 21).getLsbD 1 = true) ∧
    (evenSum (start 0x1000 0x2000 0 []) 1 1).toNat % 4 = 0 ∧ (evenSum (start 0x1000 0x2000 0 []) 1 3).toNat % 4 ≠ 0 ∧
    (relTarget (start 0x2000 0 0 []) (-4096 : BitVec 13)).toNat % 4 = 0 ∧
    (relTarget (start 0x1000 0 0 []) (4094 : BitVec 13)).toNat % 4 ≠ 0 ∧ evenOffset (4094 : BitVec 13) = true := by decide

/-- O22: for each branch, registers that meet its condition and registers that do not. -/
theorem test_witness_branch_conditions :
    let s := start 0x1000 (-1) 1 []
    (s.x 1 = s.x 1 ∧ s.x 1 ≠ s.x 2) ∧ ((s.x 1).toInt < (s.x 2).toInt ∧ ¬(s.x 2).toInt < (s.x 1).toInt) ∧
    ((s.x 2).toNat < (s.x 1).toNat ∧ ¬(s.x 1).toNat < (s.x 2).toNat) := by decide

/-- O23: a word for each clause, both ends of STORE's range. -/
theorem test_witness_undefined_funct3 :
    (opcodeNum 0x0020A463 = 0x63 ∧ funct3Num 0x0020A463 = 2) ∧ (opcodeNum 0x0020B163 = 0x63 ∧ funct3Num 0x0020B163 = 3) ∧
    (opcodeNum 0x0000F183 = 0x03 ∧ funct3Num 0x0000F183 = 7) ∧ (opcodeNum 0x0020C023 = 0x23 ∧ funct3Num 0x0020C023 = 4) ∧
    (opcodeNum 0x0020F023 = 0x23 ∧ funct3Num 0x0020F023 = 7) := by decide

/-- O26, O27: a store whose bytes wrap past the top of the address space, and an address beside them. -/
theorem test_witness_store_bytes :
    effectiveAddress (start 0 0 7 []) 0 (-1) = 0xFFFFFFFFFFFFFFFF ∧
    (0xFFFFFFFFFFFFFFFF : Addr) + BitVec.ofNat 64 7 = 6 ∧ ∀ k < 8, (7 : Addr) ≠ 0xFFFFFFFFFFFFFFFF + BitVec.ofNat 64 k := by
  decide

/-- O28: a store that completes and a load of the same address by another base and offset. -/
theorem test_witness_store_then_load :
    ∃ t, exec (.sd 1 2 (-8)) (start 0x1000 0x3000 0x1122334455667788 []) = .next t ∧
      effectiveAddress t 1 0xFF8 = effectiveAddress (start 0x1000 0x3000 0x1122334455667788 []) 1 (-8) ∧ (5 : RegIdx) ≠ 0 :=
  ⟨_, rfl, by decide, by decide⟩

/-- O30: a word of FENCE with every ignored bit set. -/
theorem test_witness_fence_word : 0xFFFF8F8F#32 &&& 0x0000707F#32 = 0x0000000F#32 := by decide

/-- O31: a word for each clause. -/
theorem test_witness_decided_illegal :
    (opcodeNum 0x0000100F = 0x0F ∧ funct3Num 0x0000100F ≠ 0) ∧ opcodeNum 0x00000073 = 0x73 ∧
    (opcodeNum 0x00009067 = 0x67 ∧ funct3Num 0x00009067 ≠ 0) ∧
    (opcodeNum 0x0000A09B = 0x1B ∧ funct3Num 0x0000A09B ∈ [2, 3, 4, 6, 7]) ∧
    (opcodeNum 0x0200909B = 0x1B ∧ funct3Num 0x0200909B = 1 ∧ funct7Num 0x0200909B ≠ 0) ∧
    (opcodeNum 0x4200D09B = 0x1B ∧ funct3Num 0x4200D09B = 5 ∧ funct7Num 0x4200D09B ≠ 0 ∧ funct7Num 0x4200D09B ≠ 0x20) := by
  decide

/-- O33, O36 to O38: a misaligned target that faults, and a committed one. -/
theorem test_witness_misaligned :
    exec (.jalr 5 1 2) (start 0x1000 0x2000 0 []) = .fault .instructionAddressMisaligned ∧
    jumpTarget (start 0x1000 0x2000 0 []) (.jalr 5 1 2) = some 0x2002 ∧
    (∃ t, exec (.jalr 5 1 1) (start 0x1000 0x2000 0 []) = .next t) ∧
    jumpTarget (start 0x1000 0x2000 0 []) (.jalr 5 1 1) = some 0x2000 := ⟨rfl, by decide, ⟨_, rfl⟩, by decide⟩

/-- O32, O35 to O37: each fault, of a word that decodes and of one that does not; O47: a run that ends in one. -/
theorem test_witness_faults :
    execute 0x002000EF (start 0x1000 0x55 0 []) = .fault .instructionAddressMisaligned ∧
    decode 0x002000EF = .ok (.jal 1 2) ∧ execute 0x0000F2E7 (start 0x1000 0x2002 0 []) = .fault .illegalInstruction ∧
    opcodeNum 0x0000F2E7 = 0x67 ∧ funct3Num 0x0000F2E7 ≠ 0 ∧ opcodeNum 0x0020B163 = 0x63 ∧ funct3Num 0x0020B163 = 3 ∧
    runFrom 8 1 State.reset = .faulted .illegalInstruction State.reset := by
  refine ⟨rfl, rfl, rfl, ?_⟩
  decide

/-- O38, O45: an aligned pc in canonical memory from which a step completes. -/
theorem test_witness_step :
    GoodState (State.reset.withFetchWord 32 0x0020B423) ∧ State.reset.pc.toNat % 4 = 0 ∧
    ∃ t, step (State.reset.withFetchWord 32 0x0020B423) = .next t := ⟨by decide, by decide, ⟨_, rfl⟩⟩

/-- O39: a completing and a faulting instruction, and two states that agree on the sources and differ elsewhere. -/
theorem test_witness_register_ports :
    (∃ t, exec (.add 3 1 1) (start 0 5 6 []) = .next t) ∧ destination (.add 3 1 1) ≠ some 2 ∧
    exec (.jal 1 2) (start 0 5 6 []) = .fault .instructionAddressMisaligned ∧
    (start 0 5 6 []).pc = (start 0 5 7 []).pc ∧ (start 0 5 6 []).mem = (start 0 5 7 []).mem ∧
    (∀ r ∈ sources (.add 3 1 1), (start 0 5 6 []).x r = (start 0 5 7 []).x r) ∧ (start 0 5 6 []).x 2 ≠ (start 0 5 7 []).x 2 :=
  ⟨⟨_, rfl⟩, by decide, rfl, by decide, by decide, by decide, by decide⟩

/-- O40: an instruction that completes and has a bus operation. -/
theorem test_witness_bus_traffic :
    (∃ t, exec (.sb 1 2 0) (start 0 5 6 []) = .next t) ∧ busRequest (.sb 1 2 0) (start 0 5 6 []) = some (.store .byte 5 6) :=
  ⟨⟨_, rfl⟩, by decide⟩

/-- O41: two buses that answer a load alike and differ beside it. -/
theorem test_witness_bus_answer :
    (start 0 0x2000 0 image).pc = (start 0 0x2000 0 [(0x2000, 0x11)]).pc ∧
    (∀ r, (start 0 0x2000 0 image).x r = (start 0 0x2000 0 [(0x2000, 0x11)]).x r) ∧
    decode 0x00008183 = .ok (.lb 3 1 0) ∧ busRequest (.lb 3 1 0) (start 0 0x2000 0 image) = some (.load .byte 0x2000) ∧
    busAnswer image (.load .byte 0x2000) = busAnswer [(0x2000, 0x11)] (.load .byte 0x2000) ∧
    image ≠ [(0x2000, 0x11)] := by decide

/-- O42: bytes at the pc that are an instruction, and bytes that are none. -/
theorem test_witness_step_runs :
    decode (wordAtPc (State.reset.withFetchWord 32 0x02A00293)) = .ok (.addi 5 0 42) ∧
    (Instr.addi 5 0 42).wellFormed = true ∧
    (∀ k < 4, byteAt (State.reset.withFetchWord 32 0x02A00293).mem (BitVec.ofNat 64 k) =
      (encode (.addi 5 0 42)).extractLsb' (8 * k) 8) ∧
    decode (wordAtPc State.reset) = .error .unmatchedOpcode := by decide

/-- O43: an address beside the placed bytes; the placed ones wrap at the top of the address space. -/
theorem test_witness_placed : ∀ k < 4, (2 : Addr) ≠ (start 0xFFFFFFFFFFFFFFFE 0 0 []).pc + BitVec.ofNat 64 k := by decide

/-- O44: a store to the word after the pc. -/
theorem test_witness_store_next :
    effectiveAddress (start 0x1000 0x1000 0x00100293 []) 1 4 = (start 0x1000 0x1000 0x00100293 []).pc + 4 := by decide

/-- O46: two canonical memories, and that memories that are not canonical can read alike and differ. -/
theorem test_witness_canonical :
    Memory.wf image = true ∧ (byteAt [(5, 1), (5, 2)] 5 = byteAt [(5, 1)] 5 ∧ Memory.wf [(5, 1), (5, 2)] = false) := by decide

/-- O47: a good state; a completed, an unfinished and a faulted run from it. -/
theorem test_witness_runs :
    let s := State.reset.withFetchWord 32 0x02A00293
    GoodState s ∧ (runFrom 4 1 s).state.pc = 4 ∧ (∃ t, runFrom 4 1 s = .completed t) ∧ (∃ t, runFrom 8 1 s = .unfinished t) ∧
    (∃ t, runFrom 8 2 s = .faulted .illegalInstruction t) ∧ s.pc ≠ 8 ∧ (∃ t, step s = .next t) ∧
    State.reset.pc ≠ 8 ∧ step State.reset = .fault .illegalInstruction :=
  ⟨by decide, by decide, ⟨_, rfl⟩, ⟨_, rfl⟩, ⟨_, rfl⟩, by decide, ⟨_, rfl⟩, by decide, rfl⟩

/-! The open bus: a device whose every read counts up, and which refuses an access that is not aligned to its width. -/

def countingBus : Bus where
  Content := Nat
  load := fun w a n => if a.toNat % widthBytes w = 0 then some (BitVec.ofNat 64 n, n + 1) else none
  store := fun w a v n => if a.toNat % widthBytes w = 0 then some (n + v.toNat) else none

def counting (b : Block) (n : Nat) : BusState countingBus := (b, n)

/-- Register `r`, the pc and the device's count of a next state. -/
def regPcCount (r : RegIdx) : BusResult countingBus → Option (Word × Word × Nat)
  | .next (b, n) => some (b.x r, b.pc, n)
  | _ => none

def stuckOn : BusResult countingBus → Option BusRequest
  | .refused (.stuck r) => some r
  | _ => none

/-- R41, R49, D14 and U3: the answer's low bits are converted, a load to x0 reads the device too, a refused access is stuck. -/
theorem test_open_bus :
    let b := (start 0x1000 0x2000 5 []).block
    regPcCount 3 (execOn countingBus (.lb 3 1 0) (counting b 0x180)) = some (0xFFFFFFFFFFFFFF80, 0x1004, 0x181) ∧
    regPcCount 0 (execOn countingBus (.lw 0 1 0) (counting b 7)) = some (0, 0x1004, 8) ∧
    regPcCount 3 (execOn countingBus (.sb 1 2 1) (counting b 7)) = some (0, 0x1004, 12) ∧
    stuckOn (execOn countingBus (.lw 3 1 1) (counting b 7)) = some (.load .word 0x2001) := by decide

/-- O49: each operation answered, and each refused. -/
theorem test_witness_open_bus_accesses :
    countingBus.load .word 0x2000 (7 : Nat) = some (7, (8 : Nat)) ∧ countingBus.load .word 0x2001 (7 : Nat) = none ∧
    countingBus.store .half 0x2000 5 (7 : Nat) = some (12 : Nat) ∧ countingBus.store .half 0x2001 5 (7 : Nat) = none := by
  refine ⟨?_, ?_, ?_, ?_⟩ <;> rfl

/-- O50: an instruction without an operation that completes, a fault, a refused access and a refused fetch. -/
theorem test_witness_open_bus_rest :
    let b := (start 0x1000 0x2001 5 []).block
    busRequest (.add 3 1 2) (b.withMemory image) = none ∧ (∃ t, exec (.add 3 1 2) (b.withMemory image) = .next t) ∧
    exec (.jal 1 2) (b.withMemory image) = .fault .instructionAddressMisaligned ∧
    busRequest (.lw 3 1 0) (b.withMemory image) = some (.load .word 0x2001) ∧
    countingBus.perform (7 : Nat) (.load .word 0x2001) = none ∧
    stuckOn (stepOn countingBus (counting (start 0x1002 0 0 []).block 0x13)) = some (.load .word 0x1002) ∧
    stuckOn (stepOn countingBus (counting b 0x0000A183)) = some (.load .word 0x2001) :=
  ⟨rfl, ⟨_, rfl⟩, rfl, rfl, rfl, by decide, by decide⟩

/-- O50: on the device an illegal load word, an illegal word that it answers to the fetch, and a jump word that faults. -/
theorem test_witness_open_bus_faults :
    let b := (start 0x1000 0x2000 5 []).block
    executeOn countingBus 0x0000F183 (counting b 7) = .fault (.illegalInstruction, (7 : Nat)) ∧
    decode 0x0000F183 = .error .loadFunct3 ∧
    stepOn countingBus (counting b 0x0000F183) = .fault (.illegalInstruction, (0x0000F184 : Nat)) ∧
    stepOn countingBus (counting b 0x002000EF) = .fault (.instructionAddressMisaligned, (0x002000F0 : Nat)) := by
  refine ⟨?_, ?_, ?_, ?_⟩ <;> rfl

/-- O53: a run on the device that completes, that is unfinished, that faults and that gets stuck. -/
theorem test_witness_open_bus_runs :
    let s := counting (start 0x1000 0 0 []).block 0x13
    let u := counting (start 0x1000 0x2001 0 []).block 0x0000A183
    (∃ t, runOn countingBus 0x1004 1 s = .completed t) ∧ (∃ t, runOn countingBus 0x1008 1 s = .unfinished t) ∧
    (∃ t, runOn countingBus 0x1008 2 s = .faulted (.illegalInstruction, (0x15 : Nat)) t) ∧
    runOn countingBus 0x1004 1 u = .refused (.stuck (.load .word 0x2001)) u ∧
    s.1.pc = 0x1000 ∧ s.1.pc ≠ 0x1004 ∧ (∃ t, stepOn countingBus s = .next t) ∧ s.1.pc.toNat % 4 = 0 :=
  ⟨⟨_, rfl⟩, ⟨_, rfl⟩, ⟨_, rfl⟩, rfl, rfl, by decide, ⟨_, rfl⟩, by decide⟩

/-- O51: an aligned pc from which a step on the device completes, fetching a NOP from it. -/
theorem test_witness_open_bus_step :
    (start 0x1000 0 0 []).block.pc.toNat % 4 = 0 ∧
    ∃ t, stepOn countingBus (counting (start 0x1000 0 0 []).block 0x13) = .next t := ⟨by decide, ⟨_, rfl⟩⟩

/-- O52: a word of each kind with its deciding bit set (R161, R163 and R162 give them as examples), a taken branch. -/
theorem test_witness_bit_one :
    (start 0x1000 0x1002 0 []).pc.toNat % 4 = 0 ∧ (opcodeNum 0x002000EF = 0x6F ∧ (0x002000EF#32).getLsbD 21 = true) ∧
    (decode 0x00000163 = .ok (.beq 0 0 2) ∧ opcodeNum 0x00000163 = 0x63 ∧ (0x00000163#32).getLsbD 8 = true ∧
      (jumpTarget (start 0x1000 0x1002 0 []) (.beq 0 0 2)).isSome = true) ∧
    (opcodeNum 0x00008067 = 0x67 ∧ funct3Num 0x00008067 = 0) := by decide

end Sys2Proof.Tests
end

section
/-! SUPPORT and O7. Sign extension and arithmetic right shift (R12, R13), each said once as an integer and once bit by bit,
for every width; later proofs cite these instead of unfolding `sext` and `shiftRightArith`. -/

namespace Sys2Proof.Machine

/-- The signed value of R12: the unsigned value, less `2^n` when the top bit is set. -/
theorem toInt_eq_toNat_sub_topBit {n : Nat} (v : BitVec n) :
    v.toInt = (v.toNat : Int) - if v.getLsbD (n - 1) then 2 ^ n else 0 := by
  rw [BitVec.toInt_eq_msb_cond, BitVec.msb_eq_getLsbD_last]
  split <;> simp

theorem sext_eq_ofInt {n : Nat} (v : BitVec n) : sext v = BitVec.ofInt 64 v.toInt := rfl

theorem getLsbD_sext {n : Nat} (v : BitVec n) {j : Nat} (hj : j < 64) :
    (sext v).getLsbD j = if j < n then v.getLsbD j else v.getLsbD (n - 1) := by
  rw [sext, BitVec.getLsbD_signExtend, BitVec.msb_eq_getLsbD_last]
  simp only [hj, decide_true, Bool.true_and]

theorem shiftRightArith_eq_ofInt {n : Nat} (a : BitVec n) (k : Nat) :
    shiftRightArith a k = BitVec.ofInt n (a.toInt / 2 ^ k) := by
  rw [shiftRightArith, BitVec.sshiftRight_eq, Int.shiftRight_eq_div_pow, Nat.cast_pow, Nat.cast_ofNat]

theorem getLsbD_shiftRightArith {n : Nat} (a : BitVec n) (k : Nat) {j : Nat} (hj : j < n) :
    (shiftRightArith a k).getLsbD j = if j + k < n then a.getLsbD (j + k) else a.getLsbD (n - 1) := by
  rw [shiftRightArith, BitVec.getLsbD_sshiftRight, BitVec.msb_eq_getLsbD_last, Nat.add_comm k]
  simp only [Nat.not_le.mpr hj, decide_false, Bool.not_false, Bool.true_and]

/-- A field shifted up to the top of a word (the first half of R12's recipe): its bit `j` stands at `j + (64 - n)`. -/
theorem getLsbD_shiftLeft_to_top {n : Nat} (v : BitVec n) (hn : n ≤ 64) {j : Nat} (hj : j < n) :
    (BitVec.ofNat 64 v.toNat <<< (64 - n)).getLsbD (j + (64 - n)) = v.getLsbD j := by
  have hword : j < 64 := by omega
  have hsum : j + (64 - n) < 64 := by omega
  rw [BitVec.getLsbD_shiftLeft, Nat.add_sub_cancel, BitVec.ofNat_toNat, BitVec.getLsbD_setWidth]
  simp only [hword, hsum, Nat.not_lt.mpr (Nat.le_add_left _ j), decide_true, decide_false, Bool.not_false, Bool.true_and]

/-- R12's recipe: shift the field up to the top of a word, then down arithmetically. -/
theorem sext_eq_shiftRightArith_shiftLeft {n : Nat} (v : BitVec n) (hpos : 0 < n) (hn : n ≤ 64) :
    sext v = shiftRightArith (BitVec.ofNat 64 v.toNat <<< (64 - n)) (64 - n) := by
  have htop : (BitVec.ofNat 64 v.toNat <<< (64 - n)).getLsbD (64 - 1) = v.getLsbD (n - 1) := by
    rw [show 64 - 1 = n - 1 + (64 - n) by omega]
    exact getLsbD_shiftLeft_to_top v hn (by omega)
  refine BitVec.eq_of_getLsbD_eq fun j hj => ?_
  rw [getLsbD_sext v hj, getLsbD_shiftRightArith _ _ hj, htop]
  by_cases hin : j < n
  · rw [if_pos hin, if_pos (by omega), getLsbD_shiftLeft_to_top v hn hin]
  · rw [if_neg hin, if_neg (by omega)]

/-- Settles O7: both recipes of R12 and both readings of R13 are instances of the laws for every width. -/
theorem primitivesAreDefinedArithmetic : Obligations.PrimitivesAreDefinedArithmetic := by
  refine ⟨fun n v hpos hn => ⟨?_, sext_eq_shiftRightArith_shiftLeft v hpos hn⟩, fun a k _ => ?_, fun a k _ => ?_⟩
  · rw [sext_eq_ofInt, toInt_eq_toNat_sub_topBit]
  · exact ⟨shiftRightArith_eq_ofInt a k, fun _ => getLsbD_shiftRightArith a k⟩
  · exact ⟨shiftRightArith_eq_ofInt a k, fun _ => getLsbD_shiftRightArith a k⟩

end Sys2Proof.Machine
end

section
/-! SUPPORT and O38, O37, O3. What a step does to the pc (R25, R27, R28, R160), said once for every instruction by `PcRule`; and
the read of register 0 (R21). -/

namespace Sys2Proof.Machine

open Sys2Proof.Claims

/-! The targets and branch conditions of the model are those of the statements, in integers. -/

theorem relativeTarget_eq_relTarget {n : Nat} (s : State) (off : BitVec n) : relativeTarget s off = relTarget s off := by
  rw [relTarget, BitVec.ofInt_add, BitVec.ofInt_toInt]
  rfl

theorem and_not_one_eq_ofNat (a : Word) : a &&& ~~~1#64 = BitVec.ofNat 64 (2 * (a.toNat / 2)) := by
  have hshift : a &&& ~~~1#64 = (a >>> 1) <<< 1 := by
    ext j hj
    simp only [BitVec.getElem_and, BitVec.getElem_not, BitVec.getElem_one, BitVec.getElem_shiftLeft]
    cases j with
    | zero => simp
    | succ n => simp [Nat.add_comm 1 n, BitVec.getLsbD_eq_getElem hj]
  apply BitVec.eq_of_toNat_eq
  rw [hshift, BitVec.toNat_shiftLeft, BitVec.toNat_ushiftRight, BitVec.toNat_ofNat, Nat.shiftLeft_eq, Nat.shiftRight_eq_div_pow,
    pow_one, Nat.mul_comm]

theorem jalrTarget_eq_evenSum (s : State) (rs1 : RegIdx) (imm : BitVec 12) : jalrTarget s rs1 imm = evenSum s rs1 imm := by
  rw [evenSum, BitVec.ofInt_add, BitVec.ofInt_toInt]
  exact and_not_one_eq_ofNat _

theorem condEq_iff (a b : Word) : condEq a b = true ↔ a = b := beq_iff_eq
theorem condNe_iff (a b : Word) : condNe a b = true ↔ a ≠ b := bne_iff_ne
theorem condLt_iff (a b : Word) : condLt a b = true ↔ a.toInt < b.toInt := BitVec.slt_iff_toInt_lt
theorem condLtu_iff (a b : Word) : condLtu a b = true ↔ a.toNat < b.toNat := BitVec.ult_iff_toNat_lt

theorem condGe_iff (a b : Word) : condGe a b = true ↔ b.toInt ≤ a.toInt := by
  rw [← not_lt, ← condLt_iff, Bool.not_eq_true]
  exact (Bool.not_eq_true' _).to_iff

theorem condGeu_iff (a b : Word) : condGeu a b = true ↔ b.toNat ≤ a.toNat := by
  rw [← not_lt, ← condLtu_iff, Bool.not_eq_true]
  exact (Bool.not_eq_true' _).to_iff

/-! The one rule of the pc, and what it says of each outcome. -/

/-- What a step from `s` that is about to commit the target `o` (none: the default advance) does to the pc, as its outcome. -/
inductive PcRule (s : State) : Option Word → Result → Prop
  | advance {t : State} (hpc : t.pc = s.pc + 4) : PcRule s none (.next t)
  | jump {tgt : Word} {t : State} (haligned : tgt.toNat % 4 = 0) (hpc : t.pc = tgt) : PcRule s (some tgt) (.next t)
  | fault {tgt : Word} (hmisaligned : tgt.toNat % 4 ≠ 0) : PcRule s (some tgt) (.fault .instructionAddressMisaligned)

theorem PcRule.pc_eq {s t : State} {o : Option Word} (h : PcRule s o (.next t)) : t.pc = o.getD (s.pc + 4) := by
  cases h with
  | advance hpc => exact hpc
  | jump _ hpc => exact hpc

theorem PcRule.advances_or_aligned {s t : State} {o : Option Word} (h : PcRule s o (.next t)) :
    t.pc = s.pc + 4 ∨ t.pc.toNat % 4 = 0 := by
  cases h with
  | advance hpc => exact .inl hpc
  | jump haligned hpc => exact .inr (hpc ▸ haligned)

theorem PcRule.eq_fault {s : State} {tgt : Word} {r : Result} (h : PcRule s (some tgt) r) (htgt : tgt.toNat % 4 ≠ 0) :
    r = .fault .instructionAddressMisaligned := by
  cases h with
  | jump haligned _ => exact absurd haligned htgt
  | fault _ => rfl

/-! The shared operations keep the rule. -/

theorem writeBack_pcRule (rd : RegIdx) (v : Word) (s : State) : PcRule s none (writeBack rd v s) := by
  rw [writeBack_eq]
  exact .advance rfl

theorem writeBackWord_pcRule (rd : RegIdx) (r32 : BitVec 32) (s : State) : PcRule s none (writeBackWord rd r32 s) :=
  writeBack_pcRule rd (sext r32) s

theorem loadInto_pcRule (w : Width) (e : LoadExt) (rd rs1 : RegIdx) (imm : BitVec 12) (s : State) :
    PcRule s none (loadInto w e rd rs1 imm s) :=
  writeBack_pcRule rd _ s

theorem storeFrom_pcRule (w : Width) (rs1 rs2 : RegIdx) (imm : BitVec 12) (s : State) :
    PcRule s none (storeFrom w rs1 rs2 imm s) := by
  rw [storeFrom_eq]
  exact .advance rfl

/-- R160: a target that is checked before it is committed. -/
theorem checkedTarget_pcRule {s t : State} {tgt : Word} (hpc : t.pc = tgt) :
    PcRule s (some tgt) (if misaligned tgt then .fault .instructionAddressMisaligned else .next t) := by
  split
  case isTrue h => exact .fault ((misaligned_iff tgt).1 h)
  case isFalse h => exact .jump ((aligned_iff tgt).1 (Bool.eq_false_of_not_eq_true h)) hpc

theorem jumpAndLink_pcRule (rd : RegIdx) (t : Word) (s : State) : PcRule s (some t) (jumpAndLink rd t s) := by
  rw [jumpAndLink_eq]
  exact checkedTarget_pcRule rfl

theorem branchIf_pcRule {c : Bool} {p : Prop} [Decidable p] (hc : c = true ↔ p) (off : BitVec 13) (s : State) :
    PcRule s (if p then some (relTarget s off) else none) (branchIf c off s) := by
  rw [branchIf_eq, ← relativeTarget_eq_relTarget]
  by_cases hp : p
  · rw [if_pos hp, if_neg (by simp [hc.2 hp])]
    exact checkedTarget_pcRule rfl
  · rw [if_neg hp, if_pos (Bool.eq_false_of_not_eq_true (mt hc.1 hp))]
    exact .advance rfl

/-- R27: every instruction commits the pc by the rule, at the target that the statements give it. -/
theorem exec_pcRule (i : Instr) (s : State) : PcRule s (jumpTarget s i) (exec i s) := by
  cases i with
  | jal rd off =>
    rw [jumpTarget, ← relativeTarget_eq_relTarget]
    exact jumpAndLink_pcRule rd (relativeTarget s off) s
  | jalr rd rs1 imm =>
    rw [jumpTarget, ← jalrTarget_eq_evenSum]
    exact jumpAndLink_pcRule rd (jalrTarget s rs1 imm) s
  | beq rs1 rs2 off => exact branchIf_pcRule (condEq_iff _ _) off s
  | bne rs1 rs2 off => exact branchIf_pcRule (condNe_iff _ _) off s
  | blt rs1 rs2 off => exact branchIf_pcRule (condLt_iff _ _) off s
  | bge rs1 rs2 off => exact branchIf_pcRule (condGe_iff _ _) off s
  | bltu rs1 rs2 off => exact branchIf_pcRule (condLtu_iff _ _) off s
  | bgeu rs1 rs2 off => exact branchIf_pcRule (condGeu_iff _ _) off s
  | lb | lh | lw | ld | lbu | lhu | lwu => exact loadInto_pcRule ..
  | sb | sh | sw | sd => exact storeFrom_pcRule ..
  | fence => exact .advance rfl
  | addiw | slliw | srliw | sraiw | addw | subw | sllw | srlw | sraw => exact writeBackWord_pcRule ..
  | lui | auipc | addi | slti | sltiu | xori | ori | andi | slli | srli | srai
  | add | sub | sll | slt | sltu | xor | srl | sra | or | and => exact writeBack_pcRule ..

theorem exec_keeps_pc_aligned {i : Instr} {s t : State} (hs : s.pc.toNat % 4 = 0) (h : exec i s = .next t) :
    t.pc.toNat % 4 = 0 := by
  obtain hpc | haligned := (h ▸ exec_pcRule i s).advances_or_aligned
  · rwa [← aligned_iff, hpc, misaligned_add_four, aligned_iff]
  · exact haligned

/-- A word that completes is an instruction, and completes as that instruction's meaning (R38). -/
theorem exec_of_execute_next {w : InstrWord} {s t : State} (h : execute w s = .next t) :
    ∃ i, decode w = .ok i ∧ exec i s = .next t := by
  unfold execute at h
  split at h
  case h_1 i hi => exact ⟨i, hi, h⟩
  case h_2 => cases h

/-- Settles O38: the rule of the pc gives an aligned target or pc + 4, and pc + 4 is aligned when the pc is. -/
theorem pcStaysAligned : Obligations.PcStaysAligned := by
  refine ⟨fun s t hs h => ?_, fun i s t h => (h ▸ exec_pcRule i s).advances_or_aligned, fun i s tgt htarget htgt => ?_⟩
  · obtain ⟨i, -, hi⟩ := exec_of_execute_next h
    exact exec_keeps_pc_aligned hs hi
  · have hfault : exec i s = .fault .instructionAddressMisaligned := (htarget ▸ exec_pcRule i s).eq_fault htgt
    exact ⟨hfault, by rw [hfault]; rfl⟩

/-- Settles O37: the committed pc is the rule's; the state after a fault is the state before it. -/
theorem pcAdvancesOnceOrJumps : Obligations.PcAdvancesOnceOrJumps := by
  refine ⟨fun i s t h => (h ▸ exec_pcRule i s).pc_eq, fun w s f h => ?_⟩
  rw [h]
  exact ⟨rfl, fun _ => rfl⟩

/-- Settles O3: the read port answers 0 for register 0 at every state, and the write port is `State.x_setX`. -/
theorem registerZeroReadsZero : Obligations.RegisterZeroReadsZero := by
  refine ⟨State.x_zero, fun _ t _ => State.x_zero t, fun s r v => ⟨State.x_zero _, fun hr => ?_, fun q hq => ?_⟩⟩
  · rw [State.x_setX_self, if_neg hr]
  · exact State.x_setX_other s v hq

end Sys2Proof.Machine
end

section
/-! SUPPORT and O6, O5, O4. The fields and the immediates of a word (R62, R66 to R72). Each immediate is the sign extension of a
gather of fields: what a field is, what sign extension does and what appending fields does is said once for every width. -/

namespace Sys2Proof.Machine

/-! Fields of a word. -/

/-- A field as a number: the quotient and the remainder that its position and its width name. -/
theorem toNat_field {n : Nat} (w : BitVec n) (start len : Nat) :
    (w.extractLsb' start len).toNat = w.toNat / 2 ^ start % 2 ^ len := by
  rw [BitVec.extractLsb'_toNat, Nat.shiftRight_eq_div_pow]

theorem getLsbD_field {n : Nat} (w : BitVec n) (start : Nat) {len j : Nat} (hj : j < len) :
    (w.extractLsb' start len).getLsbD j = w.getLsbD (start + j) := by
  rw [BitVec.getLsbD_extractLsb', decide_eq_true hj, Bool.true_and]

/-- Two fields are a run of a word's bits exactly when each is its own part of the run. -/
theorem append_eq_field_iff {n m k : Nat} (a : BitVec n) (b : BitVec m) (v : BitVec k) (start : Nat) :
    a ++ b = v.extractLsb' start (n + m) ↔ a = v.extractLsb' (start + m) n ∧ b = v.extractLsb' start m := by
  rw [← BitVec.extractLsb'_append_extractLsb'_eq_extractLsb' rfl]
  refine ⟨fun h => ⟨?_, ?_⟩, fun ⟨ha, hb⟩ => ha ▸ hb ▸ rfl⟩
  · simpa only [BitVec.extractLsb'_append_eq_left] using congrArg (·.extractLsb' m n) h
  · simpa only [BitVec.extractLsb'_append_eq_right] using congrArg (·.extractLsb' 0 m) h

/-- The low `m` bits of a multiple of `2 ^ m` are 0. -/
theorem lowBits_eq_zero {n m : Nat} (v : BitVec n) (hm : m ≤ n) (h : v.toInt % 2 ^ m = 0) : v.extractLsb' 0 m = 0#m := by
  have hnat : (v.toNat : Int) % 2 ^ m = 0 := by
    have hdvd : (2 ^ m : Int) ∣ (2 ^ n : Nat) := by
      rw [Nat.cast_pow]
      exact pow_dvd_pow 2 hm
    rw [← Int.emod_emod_of_dvd _ hdvd, ← Int.bmod_emod, ← BitVec.toInt_eq_toNat_bmod, Int.emod_emod_of_dvd _ hdvd, h]
  apply BitVec.eq_of_toNat_eq
  rw [toNat_field, pow_zero, Nat.div_one, BitVec.toNat_zero]
  exact_mod_cast hnat

/-! Sign extension of a gather. -/

/-- Bits that stay the same from the top of the field upwards are the bits of its sign extension. -/
theorem getLsbD_sext_of_bits {n : Nat} {g : BitVec n} {bit : Nat → Bool} (hpos : 0 < n)
    (hbits : ∀ j < n, g.getLsbD j = bit j) (htop : ∀ j, n ≤ j → bit j = bit (n - 1)) :
    ∀ j < 64, (sext g).getLsbD j = bit j := by
  intro j hj
  rw [getLsbD_sext g hj]
  split
  case isTrue hin => exact hbits j hin
  case isFalse hout => rw [hbits (n - 1) (by omega), htop j (by omega)]

theorem toInt_sext {n : Nat} (v : BitVec n) (hn : n ≤ 64) : (sext v).toInt = v.toInt :=
  BitVec.toInt_signExtend_of_le hn

/-- A field above `m` zero bits, sign-extended (formats B, U and J): `2 ^ m` times the field's signed value. -/
theorem toInt_sext_append_zero {n m : Nat} (v : BitVec n) (hn : n + m ≤ 64) :
    (sext (v ++ 0#m)).toInt = 2 ^ m * v.toInt := by
  rw [toInt_sext _ hn, BitVec.toInt_append_zero]

/-- A field sign-extends to a value in its range exactly when it is the value's low bits. -/
theorem sext_eq_iff {n : Nat} (hn : n ≤ 64) (g : BitVec n) (v : Word)
    (hlo : -2 ^ n ≤ v.toInt * 2) (hhi : v.toInt * 2 < 2 ^ n) : sext g = v ↔ g = v.extractLsb' 0 n := by
  constructor
  · rintro rfl
    refine BitVec.eq_of_getLsbD_eq fun j hj => ?_
    rw [getLsbD_field _ _ hj, Nat.zero_add, getLsbD_sext g (by omega), if_pos hj]
  · rintro rfl
    have hdvd : 2 ^ n ∣ 2 ^ 64 := pow_dvd_pow 2 hn
    apply BitVec.eq_of_toInt_eq
    rw [toInt_sext _ hn, ← BitVec.setWidth_eq_extractLsb' hn, BitVec.toInt_setWidth, ← Int.bmod_bmod_of_dvd hdvd,
      ← BitVec.toInt_eq_toNat_bmod]
    exact Int.bmod_eq_of_le_mul_two (by exact_mod_cast hlo) (by exact_mod_cast hhi)

/-! The bits of the immediates (R66 to R70). -/

theorem getLsbD_immI (w : InstrWord) :
    ∀ j < 64, (immI w).getLsbD j = if j < 12 then w.getLsbD (20 + j) else w.getLsbD 31 := by
  refine getLsbD_sext_of_bits (by decide) (fun j hj => ?_) (fun j hj => ?_)
  · rw [if_pos hj, gatherI, getLsbD_field w 20 hj]
  · rw [if_neg (by omega)]
    rfl

theorem getLsbD_immS (w : InstrWord) :
    ∀ j < 64, (immS w).getLsbD j =
      if j < 5 then w.getLsbD (7 + j) else if j < 12 then w.getLsbD (20 + j) else w.getLsbD 31 := by
  refine getLsbD_sext_of_bits (by decide) (fun j hj => ?_) (fun j hj => ?_)
  · simp only [gatherS, BitVec.getLsbD_append, BitVec.getLsbD_extractLsb']
    interval_cases j <;> simp
  · rw [if_neg (by omega), if_neg (by omega)]
    rfl

theorem getLsbD_immB (w : InstrWord) :
    ∀ j < 64, (immB w).getLsbD j =
      if j = 0 then false else if j < 5 then w.getLsbD (7 + j) else if j < 11 then w.getLsbD (20 + j)
      else if j = 11 then w.getLsbD 7 else w.getLsbD 31 := by
  refine getLsbD_sext_of_bits (by decide) (fun j hj => ?_) (fun j hj => ?_)
  · simp only [gatherB, BitVec.getLsbD_append, BitVec.getLsbD_extractLsb']
    interval_cases j <;> simp
  · rw [if_neg (by omega), if_neg (by omega), if_neg (by omega), if_neg (by omega)]
    rfl

theorem getLsbD_immU (w : InstrWord) :
    ∀ j < 64, (immU w).getLsbD j = if j < 12 then false else if j < 32 then w.getLsbD j else w.getLsbD 31 := by
  refine getLsbD_sext_of_bits (by decide) (fun j hj => ?_) (fun j hj => ?_)
  · rw [BitVec.getLsbD_append, if_pos hj, BitVec.getLsbD_zero]
    split
    case isTrue => rfl
    case isFalse hhigh => rw [gatherU, getLsbD_field w 12 (by omega), Nat.add_sub_cancel' (by omega)]
  · rw [if_neg (by omega), if_neg (by omega)]
    rfl

theorem getLsbD_immJ (w : InstrWord) :
    ∀ j < 64, (immJ w).getLsbD j =
      if j = 0 then false else if j < 11 then w.getLsbD (20 + j) else if j = 11 then w.getLsbD 20
      else if j < 20 then w.getLsbD j else w.getLsbD 31 := by
  refine getLsbD_sext_of_bits (by decide) (fun j hj => ?_) (fun j hj => ?_)
  · simp only [gatherJ, BitVec.getLsbD_append, BitVec.getLsbD_extractLsb']
    interval_cases j <;> simp
  · rw [if_neg (by omega), if_neg (by omega), if_neg (by omega), if_neg (by omega)]
    rfl

/-! The ranges of the immediates (R66 to R70). -/

theorem toInt_sext_range {n : Nat} (v : BitVec n) (hn : n ≤ 64) :
    -2 ^ (n - 1) ≤ (sext v).toInt ∧ (sext v).toInt ≤ 2 ^ (n - 1) - 1 := by
  rw [toInt_sext v hn]
  exact ⟨v.le_toInt, Int.le_sub_one_of_lt v.toInt_lt⟩

theorem toInt_sext_append_zero_range {n m : Nat} (v : BitVec n) (hn : n + m ≤ 64) :
    2 ^ m * -2 ^ (n - 1) ≤ (sext (v ++ 0#m)).toInt ∧ (sext (v ++ 0#m)).toInt ≤ 2 ^ m * (2 ^ (n - 1) - 1) ∧
    (sext (v ++ 0#m)).toInt % 2 ^ m = 0 := by
  have hpow : (0 : Int) ≤ 2 ^ m := by positivity
  rw [toInt_sext_append_zero v hn]
  exact ⟨Int.mul_le_mul_of_nonneg_left v.le_toInt hpow,
    Int.mul_le_mul_of_nonneg_left (Int.le_sub_one_of_lt v.toInt_lt) hpow, Int.mul_emod_right _ _⟩

/-- Settles O5: R66 to R70's bits, and the ranges of a field of the format's width. -/
theorem immediatesGatherTheirBits : Obligations.ImmediatesGatherTheirBits := by
  intro w
  exact ⟨getLsbD_immI w, getLsbD_immS w, getLsbD_immB w, getLsbD_immU w, getLsbD_immJ w,
    toInt_sext_range (gatherI w) (by decide), toInt_sext_range (gatherS w) (by decide),
    And.imp_right And.left (toInt_sext_append_zero_range (n := 12) (m := 1) _ (by decide)),
    toInt_sext_append_zero_range (gatherU w) (by decide),
    And.imp_right And.left (toInt_sext_append_zero_range (n := 20) (m := 1) _ (by decide))⟩

/-! The gathers against the low bits of a value, field by field (R72). -/

theorem gatherS_eq_lowBits_iff (w : InstrWord) (v : Word) :
    gatherS w = v.extractLsb' 0 12 ↔ w.extractLsb' 25 7 = v.extractLsb' 5 7 ∧ w.extractLsb' 7 5 = v.extractLsb' 0 5 :=
  append_eq_field_iff (w.extractLsb' 25 7) (w.extractLsb' 7 5) v 0

theorem gatherB_eq_lowBits_iff (w : InstrWord) (v : Word) (hlow : v.extractLsb' 0 1 = 0#1) :
    gatherB w = v.extractLsb' 0 13 ↔ w.extractLsb' 31 1 = v.extractLsb' 12 1 ∧ w.extractLsb' 25 6 = v.extractLsb' 5 6 ∧
      w.extractLsb' 8 4 = v.extractLsb' 1 4 ∧ w.extractLsb' 7 1 = v.extractLsb' 11 1 := by
  rw [gatherB, append_eq_field_iff (m := 1), append_eq_field_iff (m := 4), append_eq_field_iff (m := 6), append_eq_field_iff]
  exact ⟨fun ⟨⟨⟨⟨h31, h7⟩, h25⟩, h8⟩, _⟩ => ⟨h31, h25, h8, h7⟩,
    fun ⟨h31, h25, h8, h7⟩ => ⟨⟨⟨⟨h31, h7⟩, h25⟩, h8⟩, hlow.symm⟩⟩

theorem gatherU_append_zero_eq_lowBits_iff (w : InstrWord) (v : Word) (hlow : v.extractLsb' 0 12 = 0#12) :
    gatherU w ++ 0#12 = v.extractLsb' 0 32 ↔ w.extractLsb' 12 20 = v.extractLsb' 12 20 := by
  rw [append_eq_field_iff]
  exact ⟨And.left, fun h => ⟨h, hlow.symm⟩⟩

theorem gatherJ_eq_lowBits_iff (w : InstrWord) (v : Word) (hlow : v.extractLsb' 0 1 = 0#1) :
    gatherJ w = v.extractLsb' 0 21 ↔ w.extractLsb' 31 1 = v.extractLsb' 20 1 ∧ w.extractLsb' 21 10 = v.extractLsb' 1 10 ∧
      w.extractLsb' 20 1 = v.extractLsb' 11 1 ∧ w.extractLsb' 12 8 = v.extractLsb' 12 8 := by
  rw [gatherJ, append_eq_field_iff (m := 1), append_eq_field_iff (m := 10), append_eq_field_iff (m := 1), append_eq_field_iff]
  exact ⟨fun ⟨⟨⟨⟨h31, h12⟩, h20⟩, h21⟩, _⟩ => ⟨h31, h21, h20, h12⟩,
    fun ⟨h31, h21, h20, h12⟩ => ⟨⟨⟨⟨h31, h12⟩, h20⟩, h21⟩, hlow.symm⟩⟩

/-- Settles O6: in range, the gather is the value's low bits, and those are the encoder's fields. -/
theorem immediatesRoundTrip : Obligations.ImmediatesRoundTrip := by
  intro w v
  refine ⟨fun ⟨hlo, hhi⟩ => ?_, fun ⟨hlo, hhi⟩ => ?_, fun ⟨hlo, hhi, heven⟩ => ?_, fun ⟨hlo, hhi, hmult⟩ => ?_,
    fun ⟨hlo, hhi, heven⟩ => ?_⟩
  · exact sext_eq_iff (by decide) (gatherI w) v (by omega) (by omega)
  · rw [immS, sext_eq_iff (by decide) _ v (by omega) (by omega), gatherS_eq_lowBits_iff]
  · rw [immB, sext_eq_iff (by decide) _ v (by omega) (by omega),
      gatherB_eq_lowBits_iff w v (lowBits_eq_zero v (by decide) heven)]
  · rw [immU, upperImmediate, sext_eq_iff (by decide) _ v (by omega) (by omega),
      gatherU_append_zero_eq_lowBits_iff w v (lowBits_eq_zero v (by decide) hmult)]
  · rw [immJ, sext_eq_iff (by decide) _ v (by omega) (by omega),
      gatherJ_eq_lowBits_iff w v (lowBits_eq_zero v (by decide) heven)]

/-- Settles O4: each fixed field is the field of R62's position and width. -/
theorem fixedFieldsStandAtTheirBits : Obligations.FixedFieldsStandAtTheirBits := by
  intro w
  refine ⟨?_, toNat_field w 7 5, toNat_field w 12 3, toNat_field w 15 5, toNat_field w 20 5, toNat_field w 25 7⟩
  rw [opcodeOf, toNat_field, pow_zero, Nat.div_one]

end Sys2Proof.Machine
end

section
/-! SUPPORT. Decoder and encoder are inverse to each other on the well-formed instructions (30_encoding.md R65, R72 to R81, R83),
so a row of the opcode table (R85) is the set of words that the row's own encoding gives back. -/

namespace Sys2Proof

open Sys2Proof.Claims

/-! Encode, then decode. -/

/-- The format's operands come back, and the selectors that the encoder placed name the arm. -/
theorem decode_encode {i : Instr} (h : i.wellFormed = true) : decode (encode i) = .ok i := by
  cases i with
  | lui | auipc => simp [encode, decode]
  | jal rd off =>
    have heven : evenOffset off = true := h
    simp [encode, decode, heven]
  | beq rs1 rs2 off | bne rs1 rs2 off | blt rs1 rs2 off | bge rs1 rs2 off | bltu rs1 rs2 off | bgeu rs1 rs2 off =>
    have heven : evenOffset off = true := h
    simp [encode, decode, decodeBranch, heven]
  | jalr => simp [encode, decode, decodeJalr]
  | lb | lh | lw | ld | lbu | lhu | lwu => simp [encode, decode, decodeLoad]
  | sb | sh | sw | sd => simp [encode, decode, decodeStore]
  | addi | slti | sltiu | xori | ori | andi | slli | srli | srai => simp [encode, decode, decodeOpImm]
  | add | sub | sll | slt | sltu | xor | srl | sra | or | and => simp [encode, decode, decodeOp]
  | addiw | slliw | srliw | sraiw => simp [encode, decode, decodeOpImm32]
  | addw | subw | sllw | srlw | sraw => simp [encode, decode, decodeOp32]
  | fence => simp [encode, decode, decodeMiscMem]

/-! A word's own operands, encoded with given selectors, are the word exactly when the selectors are the word's own. -/

theorem encU_operands_eq_iff (w : InstrWord) (op : BitVec 7) :
    encU (gatherU w) (rdOf w) op = w ↔ opcodeOf w = op := by
  refine ⟨fun h => (congrArg opcodeOf h).symm.trans (opcodeOf_encU ..), ?_⟩
  rintro rfl
  exact encU_fields w

theorem encJ_operands_eq_iff (w : InstrWord) (op : BitVec 7) :
    encJ (gatherJ w) (rdOf w) op = w ↔ opcodeOf w = op := by
  refine ⟨fun h => (congrArg opcodeOf h).symm.trans (opcodeOf_encJ ..), ?_⟩
  rintro rfl
  exact encJ_fields w

theorem encI_operands_eq_iff (w : InstrWord) (f3 : BitVec 3) (op : BitVec 7) :
    encI (gatherI w) (rs1Of w) f3 (rdOf w) op = w ↔ opcodeOf w = op ∧ funct3Of w = f3 := by
  refine ⟨fun h => ⟨(congrArg opcodeOf h).symm.trans (opcodeOf_encI ..),
    (congrArg funct3Of h).symm.trans (funct3Of_encI ..)⟩, ?_⟩
  rintro ⟨rfl, rfl⟩
  exact encI_fields w

theorem encS_operands_eq_iff (w : InstrWord) (f3 : BitVec 3) (op : BitVec 7) :
    encS (gatherS w) (rs2Of w) (rs1Of w) f3 op = w ↔ opcodeOf w = op ∧ funct3Of w = f3 := by
  refine ⟨fun h => ⟨(congrArg opcodeOf h).symm.trans (opcodeOf_encS ..),
    (congrArg funct3Of h).symm.trans (funct3Of_encS ..)⟩, ?_⟩
  rintro ⟨rfl, rfl⟩
  exact encS_fields w

theorem encB_operands_eq_iff (w : InstrWord) (f3 : BitVec 3) (op : BitVec 7) :
    encB (gatherB w) (rs2Of w) (rs1Of w) f3 op = w ↔ opcodeOf w = op ∧ funct3Of w = f3 := by
  refine ⟨fun h => ⟨(congrArg opcodeOf h).symm.trans (opcodeOf_encB ..),
    (congrArg funct3Of h).symm.trans (funct3Of_encB ..)⟩, ?_⟩
  rintro ⟨rfl, rfl⟩
  exact encB_fields w

theorem encR_operands_eq_iff (w : InstrWord) (f7 : BitVec 7) (f3 : BitVec 3) (op : BitVec 7) :
    encR f7 (rs2Of w) (rs1Of w) f3 (rdOf w) op = w ↔ opcodeOf w = op ∧ funct3Of w = f3 ∧ funct7Of w = f7 := by
  refine ⟨fun h => ⟨(congrArg opcodeOf h).symm.trans (opcodeOf_encR ..), (congrArg funct3Of h).symm.trans (funct3Of_encR ..),
    (congrArg funct7Of h).symm.trans (funct7Of_encR ..)⟩, ?_⟩
  rintro ⟨rfl, rfl, rfl⟩
  exact encR_fields w

/-- The 64-bit immediate shifts, whose immediate field holds a type of six bits and an amount of six (R71). -/
theorem encI_shift6_eq_iff (w : InstrWord) (ty : BitVec 6) (f3 : BitVec 3) (op : BitVec 7) :
    encI (ty ++ shamt6Of w) (rs1Of w) f3 (rdOf w) op = w ↔ opcodeOf w = op ∧ funct3Of w = f3 ∧ shtype6Of w = ty := by
  refine ⟨fun h => ⟨(congrArg opcodeOf h).symm.trans (opcodeOf_encI ..), (congrArg funct3Of h).symm.trans (funct3Of_encI ..),
    (congrArg shtype6Of h).symm.trans (shtype6Of_encI ..)⟩, ?_⟩
  rintro ⟨rfl, rfl, rfl⟩
  rw [shtype6_shamt6, encI_fields]

/-- The word immediate shifts, whose immediate field holds funct7 and an amount of five bits (R71). -/
theorem encI_shift5_eq_iff (w : InstrWord) (f7 : BitVec 7) (f3 : BitVec 3) (op : BitVec 7) :
    encI (f7 ++ shamt5Of w) (rs1Of w) f3 (rdOf w) op = w ↔ opcodeOf w = op ∧ funct3Of w = f3 ∧ funct7Of w = f7 := by
  refine ⟨fun h => ⟨(congrArg opcodeOf h).symm.trans (opcodeOf_encI ..), (congrArg funct3Of h).symm.trans (funct3Of_encI ..),
    (congrArg funct7Of h).symm.trans (funct7Of_encI ..)⟩, ?_⟩
  rintro ⟨rfl, rfl, rfl⟩
  rw [funct7_shamt5, encI_fields]

/-! Decode, then encode: one lemma per major opcode with a second selector. -/

theorem encode_of_decodeBranch {w : InstrWord} {i : Instr} (hop : opcodeOf w = 0b1100011#7) (h : decodeBranch w = .ok i) :
    i.wellFormed = true ∧ encode i = w := by
  unfold decodeBranch at h
  split at h <;> cases h <;> exact ⟨gatherB_even w, (encB_operands_eq_iff ..).2 ⟨hop, ‹_›⟩⟩

theorem encode_of_decodeLoad {w : InstrWord} {i : Instr} (hop : opcodeOf w = 0b0000011#7) (h : decodeLoad w = .ok i) :
    i.wellFormed = true ∧ encode i = w := by
  unfold decodeLoad at h
  split at h <;> cases h <;> exact ⟨rfl, (encI_operands_eq_iff ..).2 ⟨hop, ‹_›⟩⟩

theorem encode_of_decodeStore {w : InstrWord} {i : Instr} (hop : opcodeOf w = 0b0100011#7) (h : decodeStore w = .ok i) :
    i.wellFormed = true ∧ encode i = w := by
  unfold decodeStore at h
  split at h <;> cases h <;> exact ⟨rfl, (encS_operands_eq_iff ..).2 ⟨hop, ‹_›⟩⟩

theorem encode_of_decodeOp {w : InstrWord} {i : Instr} (hop : opcodeOf w = 0b0110011#7) (h : decodeOp w = .ok i) :
    i.wellFormed = true ∧ encode i = w := by
  unfold decodeOp at h
  split at h <;> cases h <;> exact ⟨rfl, (encR_operands_eq_iff ..).2 ⟨hop, ‹_›, ‹_›⟩⟩

theorem encode_of_decodeOp32 {w : InstrWord} {i : Instr} (hop : opcodeOf w = 0b0111011#7) (h : decodeOp32 w = .ok i) :
    i.wellFormed = true ∧ encode i = w := by
  unfold decodeOp32 at h
  split at h <;> cases h <;> exact ⟨rfl, (encR_operands_eq_iff ..).2 ⟨hop, ‹_›, ‹_›⟩⟩

theorem encode_of_decodeOpImm {w : InstrWord} {i : Instr} (hop : opcodeOf w = 0b0010011#7) (h : decodeOpImm w = .ok i) :
    i.wellFormed = true ∧ encode i = w := by
  unfold decodeOpImm at h
  split at h
  case h_1 | h_2 | h_3 | h_4 | h_5 | h_6 => cases h; exact ⟨rfl, (encI_operands_eq_iff ..).2 ⟨hop, ‹_›⟩⟩
  case h_7 hf3 | h_8 hf3 =>
    split_ifs at h <;> cases h <;> exact ⟨rfl, (encI_shift6_eq_iff ..).2 ⟨hop, hf3, ‹_›⟩⟩
  case h_9 => cases h

theorem encode_of_decodeOpImm32 {w : InstrWord} {i : Instr} (hop : opcodeOf w = 0b0011011#7) (h : decodeOpImm32 w = .ok i) :
    i.wellFormed = true ∧ encode i = w := by
  unfold decodeOpImm32 at h
  split at h
  case h_1 hf3 => cases h; exact ⟨rfl, (encI_operands_eq_iff ..).2 ⟨hop, hf3⟩⟩
  case h_2 hf3 | h_3 hf3 => split_ifs at h <;> cases h <;> exact ⟨rfl, (encI_shift5_eq_iff ..).2 ⟨hop, hf3, ‹_›⟩⟩
  case h_4 => cases h

theorem encode_of_decodeJalr {w : InstrWord} {i : Instr} (hop : opcodeOf w = 0b1100111#7) (h : decodeJalr w = .ok i) :
    i.wellFormed = true ∧ encode i = w := by
  unfold decodeJalr at h
  split_ifs at h with hf3
  cases h
  exact ⟨rfl, (encI_operands_eq_iff ..).2 ⟨hop, hf3⟩⟩

theorem encode_of_decodeMiscMem {w : InstrWord} {i : Instr} (hop : opcodeOf w = 0b0001111#7) (h : decodeMiscMem w = .ok i) :
    i.wellFormed = true ∧ encode i = w := by
  unfold decodeMiscMem at h
  split_ifs at h with hf3
  cases h
  refine ⟨rfl, ?_⟩
  rw [encode, fence_fields, encI_operands_eq_iff]
  exact ⟨hop, hf3⟩

/-- Whatever decodes is well-formed and encodes back to the very word. -/
theorem encode_of_decode {w : InstrWord} {i : Instr} (h : decode w = .ok i) : i.wellFormed = true ∧ encode i = w := by
  unfold decode at h
  split at h
  case h_1 hop | h_2 hop => cases h; exact ⟨rfl, (encU_operands_eq_iff ..).2 hop⟩
  case h_3 hop => cases h; exact ⟨gatherJ_even w, (encJ_operands_eq_iff ..).2 hop⟩
  case h_4 hop => exact encode_of_decodeJalr hop h
  case h_5 hop => exact encode_of_decodeBranch hop h
  case h_6 hop => exact encode_of_decodeLoad hop h
  case h_7 hop => exact encode_of_decodeStore hop h
  case h_8 hop => exact encode_of_decodeOpImm hop h
  case h_9 hop => exact encode_of_decodeOp hop h
  case h_10 hop => exact encode_of_decodeOpImm32 hop h
  case h_11 hop => exact encode_of_decodeOp32 hop h
  case h_12 hop => exact encode_of_decodeMiscMem hop h
  case h_13 | h_14 => cases h

/-- The decoder is the inverse of the encoder on the well-formed instructions. -/
theorem decode_eq_ok_iff {w : InstrWord} {i : Instr} : decode w = .ok i ↔ i.wellFormed = true ∧ encode i = w := by
  refine ⟨encode_of_decode, ?_⟩
  rintro ⟨hwf, rfl⟩
  exact decode_encode hwf

/-! The rows of the opcode table (R85) by their mask; the selectors are those of the row's match. -/

/-- A row holds when its mask picks out the words that its encoding gives back. -/
theorem rowDecodes_of_encode {mtch mask : InstrWord} {mk : InstrWord → Instr} (hwf : ∀ w, (mk w).wellFormed = true)
    (henc : ∀ w, w &&& mask = mtch ↔ encode (mk w) = w) : RowDecodes mtch mask mk := fun w => by
  rw [henc, decode_eq_ok_iff, and_iff_right (hwf w)]

/-- A row of format I: the mask covers opcode and funct3. -/
theorem rowDecodes_formatI {mtch : InstrWord} {mk : InstrWord → Instr} (hm : mtch &&& 0x0000707F#32 = mtch)
    (hwf : ∀ w, (mk w).wellFormed = true)
    (henc : ∀ w, encode (mk w) = encI (gatherI w) (rs1Of w) (funct3Of mtch) (rdOf w) (opcodeOf mtch)) :
    RowDecodes mtch 0x0000707F#32 mk :=
  rowDecodes_of_encode hwf fun w => by rw [mask_funct3 w mtch hm, henc, encI_operands_eq_iff]

/-- A row of the 64-bit immediate shifts: the mask covers the whole six-bit type as well. -/
theorem rowDecodes_shift6 {mtch : InstrWord} {mk : InstrWord → Instr} (hm : mtch &&& 0xFC00707F#32 = mtch)
    (hwf : ∀ w, (mk w).wellFormed = true)
    (henc : ∀ w, encode (mk w) = encI (shtype6Of mtch ++ shamt6Of w) (rs1Of w) (funct3Of mtch) (rdOf w) (opcodeOf mtch)) :
    RowDecodes mtch 0xFC00707F#32 mk :=
  rowDecodes_of_encode hwf fun w => by rw [mask_shtype6 w mtch hm, henc, encI_shift6_eq_iff]

end Sys2Proof
end

section
/-! SUPPORT and O12, O13. The nine OP-IMM instructions (R100 to R111): the template "write a value and advance", their results in
integers, and the words whose shift type selects nothing (R109). -/

namespace Sys2Proof.Machine

open Sys2Proof.Claims

/-! The template (R110), and words that do not decode. -/

/-- A meaning that is a write-back of the value `v` completes with it, changing nothing else. -/
theorem completesWriting_of_writeBack {i : Instr} {s : State} {rd : RegIdx} {u v : Word} (h : exec i s = writeBack rd u s)
    (hv : u = v) : CompletesWriting i s rd v := by
  refine ⟨(s.setX rd v).setPc (s.pc + 4), ?_, State.x_setX_self s rd v, fun r hr => State.x_setX_other s v hr, rfl, ?_⟩
  · rw [h, hv, writeBack_eq]
  · rw [State.setPc_mem, State.setX_mem]
    exact ⟨rfl, fun _ => rfl⟩

/-- A word that is no instruction is IllegalInstruction at every state (R4, R220, R223). -/
theorem faultsIllegal_of_decode_error {w : InstrWord} {e : DecodeError} (h : decode w = .error e) : FaultsIllegal w := by
  intro s
  have hfault : execute w s = .fault .illegalInstruction := by rw [execute, h, raise_eq]
  exact ⟨hfault, by rw [hfault, stateAfter]⟩

/-! The results in integers. -/

theorem add_sext_eq_ofInt {n : Nat} (a : Word) (v : BitVec n) : a + sext v = BitVec.ofInt 64 (a.toInt + v.toInt) := by
  rw [BitVec.ofInt_add, BitVec.ofInt_toInt, sext_eq_ofInt]

theorem boolWord_eq_ite {c : Bool} {p : Prop} [Decidable p] (h : c = true ↔ p) : boolWord c = if p then 1 else 0 :=
  if_congr h rfl rfl

theorem signedLess_sext_iff {n : Nat} (a : Word) (v : BitVec n) (hn : n ≤ 64) :
    signedLess a (sext v) = true ↔ a.toInt < v.toInt := by
  rw [← toInt_sext v hn]
  exact condLt_iff a (sext v)

theorem shiftLeft_eq_ofNat {n : Nat} (a : BitVec n) (k : Nat) : shiftLeft a k = BitVec.ofNat n (a.toNat * 2 ^ k) := by
  apply BitVec.eq_of_toNat_eq
  rw [shiftLeft, BitVec.toNat_shiftLeft, BitVec.toNat_ofNat, Nat.shiftLeft_eq]

theorem shiftRight_eq_ofNat {n : Nat} (a : BitVec n) (k : Nat) : shiftRight a k = BitVec.ofNat n (a.toNat / 2 ^ k) := by
  rw [shiftRight, ← Nat.shiftRight_eq_div_pow, ← BitVec.toNat_ushiftRight, BitVec.ofNat_toNat, BitVec.setWidth_eq]

/-! The selectors of the statements are the decoder's. -/

theorem opcodeOf_eq_iff (w : InstrWord) (op : BitVec 7) : opcodeOf w = op ↔ opcodeNum w = op.toNat := by
  rw [← BitVec.toNat_inj, opcodeOf, toNat_field, pow_zero, Nat.div_one, opcodeNum]

theorem funct3Of_eq_iff (w : InstrWord) (f3 : BitVec 3) : funct3Of w = f3 ↔ funct3Num w = f3.toNat := by
  rw [← BitVec.toNat_inj, funct3Of, toNat_field, funct3Num]

theorem shtype6Of_eq_iff (w : InstrWord) (ty : BitVec 6) : shtype6Of w = ty ↔ shtype6Num w = ty.toNat := by
  rw [← BitVec.toNat_inj, shtype6Of, toNat_field, shtype6Num]

/-! The immediate shifts with a type that selects nothing (R109). -/

theorem decode_eq_decodeOpImm {w : InstrWord} (hop : opcodeOf w = 0b0010011#7) : decode w = decodeOpImm w := by
  simp only [decode, hop]

theorem decodeOpImm_leftShift_eq_error {w : InstrWord} (hf3 : funct3Of w = 0b001#3) (hty : shtype6Of w ≠ 0b000000#6) :
    decodeOpImm w = .error .opImmShiftType := by
  rw [decodeOpImm, hf3]
  exact if_neg hty

theorem decodeOpImm_rightShift_eq_error {w : InstrWord} (hf3 : funct3Of w = 0b101#3) (hty : shtype6Of w ≠ 0b000000#6)
    (hty' : shtype6Of w ≠ 0b010000#6) : decodeOpImm w = .error .opImmShiftType := by
  rw [decodeOpImm, hf3]
  exact (if_neg hty).trans (if_neg hty')

theorem leftShift_faultsIllegal {w : InstrWord} (hop : opcodeNum w = 0x13) (hf3 : funct3Num w = 1) (hty : shtype6Num w ≠ 0) :
    FaultsIllegal w :=
  faultsIllegal_of_decode_error <| (decode_eq_decodeOpImm ((opcodeOf_eq_iff ..).2 hop)).trans <|
    decodeOpImm_leftShift_eq_error ((funct3Of_eq_iff ..).2 hf3) (mt (shtype6Of_eq_iff ..).1 hty)

theorem rightShift_faultsIllegal {w : InstrWord} (hop : opcodeNum w = 0x13) (hf3 : funct3Num w = 5) (hty : shtype6Num w ≠ 0)
    (hty' : shtype6Num w ≠ 0x10) : FaultsIllegal w :=
  faultsIllegal_of_decode_error <| (decode_eq_decodeOpImm ((opcodeOf_eq_iff ..).2 hop)).trans <|
    decodeOpImm_rightShift_eq_error ((funct3Of_eq_iff ..).2 hf3) (mt (shtype6Of_eq_iff ..).1 hty) (mt (shtype6Of_eq_iff ..).1 hty')

/-- Settles O12: each of the six writes its result back by the template, and each row is its own encoding's. -/
theorem opImmArithmeticWritesItsResult : Obligations.OpImmArithmeticWritesItsResult := by
  refine ⟨fun rd rs1 imm s => ⟨?addi, ?slti, ?sltiu, ?xori, ?ori, ?andi⟩, ?rows⟩
  case addi => exact completesWriting_of_writeBack rfl (add_sext_eq_ofInt _ imm)
  case slti => exact completesWriting_of_writeBack rfl (boolWord_eq_ite (signedLess_sext_iff _ imm (by decide)))
  case sltiu => exact completesWriting_of_writeBack rfl (boolWord_eq_ite (condLtu_iff _ (immValue imm)))
  case xori | ori | andi => exact completesWriting_of_writeBack rfl rfl
  case rows =>
    refine ⟨?_, ?_, ?_, ?_, ?_, ?_⟩ <;> exact rowDecodes_formatI (by decide) (fun _ => rfl) (fun _ => rfl)

/-- Settles O13: as O12 for the three shifts, and R109 on the shift types left over. -/
theorem opImmShiftsWriteTheirResult : Obligations.OpImmShiftsWriteTheirResult := by
  refine ⟨fun rd rs1 shamt s => ⟨?slli, ?srli, ?srai⟩, ?rowSlli, ?rowSrli, ?rowSrai, fun w => leftShift_faultsIllegal,
    fun w => rightShift_faultsIllegal⟩
  case slli => exact completesWriting_of_writeBack rfl (shiftLeft_eq_ofNat _ _)
  case srli => exact completesWriting_of_writeBack rfl (shiftRight_eq_ofNat _ _)
  case srai => exact completesWriting_of_writeBack rfl (shiftRightArith_eq_ofInt _ _)
  case rowSlli | rowSrli | rowSrai => exact rowDecodes_shift6 (by decide) (fun _ => rfl) (fun _ => rfl)

end Sys2Proof.Machine
end

section
/-! SUPPORT and O14, O15, O16. The ten OP instructions (R120 to R131): their results in integers and the rows of format R; and the
(funct3, funct7) pairs of OP and OP-32 that select nothing (R132, R150), in the words of R220's table. -/

namespace Sys2Proof.Machine

open Sys2Proof.Claims

/-! The results in integers. -/

theorem add_eq_ofInt {n : Nat} (a b : BitVec n) : a + b = BitVec.ofInt n (a.toInt + b.toInt) := by
  rw [BitVec.ofInt_add, BitVec.ofInt_toInt, BitVec.ofInt_toInt]

theorem sub_eq_ofInt {n : Nat} (a b : BitVec n) : a - b = BitVec.ofInt n (a.toInt - b.toInt) := by
  rw [← BitVec.toInt_inj, BitVec.toInt_sub, BitVec.toInt_ofInt]

/-- R131: the amount is the low 6 bits of the register. -/
theorem shiftAmount6_eq_mod (v : Word) : shiftAmount6 v = v.toNat % 64 := by
  simp only [shiftAmount6, toNat_field, pow_zero, Nat.div_one, Nat.reducePow]

/-! The rows (R85). -/

/-- A row of format R: the mask covers opcode, funct3 and the whole of funct7. -/
theorem rowDecodes_formatR {mtch : InstrWord} {mk : InstrWord → Instr} (hm : mtch &&& 0xFE00707F#32 = mtch)
    (hwf : ∀ w, (mk w).wellFormed = true)
    (henc : ∀ w, encode (mk w) = encR (funct7Of mtch) (rs2Of w) (rs1Of w) (funct3Of mtch) (rdOf w) (opcodeOf mtch)) :
    RowDecodes mtch 0xFE00707F#32 mk :=
  rowDecodes_of_encode hwf fun w => by rw [mask_funct7 w mtch hm, henc, encR_operands_eq_iff]

/-! The pairs that select nothing. -/

theorem funct7Of_eq_iff (w : InstrWord) (f7 : BitVec 7) : funct7Of w = f7 ↔ funct7Num w = f7.toNat := by
  rw [← BitVec.toNat_inj, funct7Of, toNat_field, funct7Num]

theorem decode_eq_decodeOp {w : InstrWord} (hop : opcodeOf w = 0b0110011#7) : decode w = decodeOp w := by
  simp only [decode, hop]

theorem decode_eq_decodeOp32 {w : InstrWord} (hop : opcodeOf w = 0b0111011#7) : decode w = decodeOp32 w := by
  simp only [decode, hop]

/-- The arms of OP by funct7: 0 with every funct3, 0x20 with those of SUB and SRA; any other pair falls through. -/
theorem decodeOp_eq_error {w : InstrWord}
    (hsel : ¬(funct7Num w = 0 ∨ funct7Num w = 0x20 ∧ (funct3Num w = 0 ∨ funct3Num w = 5))) :
    decodeOp w = .error .opFunct := by
  unfold decodeOp
  split
  case h_1 hf7 | h_3 hf7 | h_4 hf7 | h_5 hf7 | h_6 hf7 | h_7 hf7 | h_9 hf7 | h_10 hf7 =>
    exact absurd (.inl ((funct7Of_eq_iff ..).1 hf7)) hsel
  case h_2 hf3 hf7 => exact absurd (.inr ⟨(funct7Of_eq_iff ..).1 hf7, .inl ((funct3Of_eq_iff ..).1 hf3)⟩) hsel
  case h_8 hf3 hf7 => exact absurd (.inr ⟨(funct7Of_eq_iff ..).1 hf7, .inr ((funct3Of_eq_iff ..).1 hf3)⟩) hsel
  case h_11 => rfl

/-- The arms of OP-32 by funct7: 0 with the funct3 of ADDW, SLLW and SRLW, 0x20 with those of SUBW and SRAW. -/
theorem decodeOp32_eq_error {w : InstrWord}
    (hsel : ¬(funct7Num w = 0 ∧ funct3Num w ∈ [0, 1, 5] ∨ funct7Num w = 0x20 ∧ funct3Num w ∈ [0, 5])) :
    decodeOp32 w = .error .op32Funct := by
  unfold decodeOp32
  split
  case h_1 hf3 hf7 | h_3 hf3 hf7 | h_4 hf3 hf7 =>
    refine absurd (.inl ⟨(funct7Of_eq_iff ..).1 hf7, ?_⟩) hsel
    rw [(funct3Of_eq_iff ..).1 hf3]
    decide
  case h_2 hf3 hf7 | h_5 hf3 hf7 =>
    refine absurd (.inr ⟨(funct7Of_eq_iff ..).1 hf7, ?_⟩) hsel
    rw [(funct3Of_eq_iff ..).1 hf3]
    decide
  case h_6 => rfl

theorem op_faultsIllegal {w : InstrWord} (hop : opcodeNum w = 0x33)
    (hsel : ¬(funct7Num w = 0 ∨ funct7Num w = 0x20 ∧ (funct3Num w = 0 ∨ funct3Num w = 5))) : FaultsIllegal w :=
  faultsIllegal_of_decode_error ((decode_eq_decodeOp ((opcodeOf_eq_iff ..).2 hop)).trans (decodeOp_eq_error hsel))

theorem op32_faultsIllegal {w : InstrWord} (hop : opcodeNum w = 0x3B)
    (hsel : ¬(funct7Num w = 0 ∧ funct3Num w ∈ [0, 1, 5] ∨ funct7Num w = 0x20 ∧ funct3Num w ∈ [0, 5])) : FaultsIllegal w :=
  faultsIllegal_of_decode_error ((decode_eq_decodeOp32 ((opcodeOf_eq_iff ..).2 hop)).trans (decodeOp32_eq_error hsel))

/-- Settles O14: each of the seven writes its result back by the template (R130), and each row is its own encoding's. -/
theorem opArithmeticWritesItsResult : Obligations.OpArithmeticWritesItsResult := by
  refine ⟨fun rd rs1 rs2 s => ⟨?add, ?sub, ?slt, ?sltu, ?xor, ?or, ?and⟩, ?rows⟩
  case add => exact completesWriting_of_writeBack rfl (add_eq_ofInt _ _)
  case sub => exact completesWriting_of_writeBack rfl (sub_eq_ofInt _ _)
  case slt => exact completesWriting_of_writeBack rfl (boolWord_eq_ite (condLt_iff _ _))
  case sltu => exact completesWriting_of_writeBack rfl (boolWord_eq_ite (condLtu_iff _ _))
  case xor | or | and => exact completesWriting_of_writeBack rfl rfl
  case rows =>
    refine ⟨?_, ?_, ?_, ?_, ?_, ?_, ?_⟩ <;> exact rowDecodes_formatR (by decide) (fun _ => rfl) (fun _ => rfl)

/-- Settles O15: as O14 for the three shifts, whose amount is the register's value mod 64. -/
theorem opShiftsWriteTheirResult : Obligations.OpShiftsWriteTheirResult := by
  refine ⟨fun rd rs1 rs2 s => ?results, ?rowSll, ?rowSrl, ?rowSra⟩
  case results =>
    rw [← shiftAmount6_eq_mod]
    exact ⟨completesWriting_of_writeBack rfl (shiftLeft_eq_ofNat _ _), completesWriting_of_writeBack rfl (shiftRight_eq_ofNat _ _),
      completesWriting_of_writeBack rfl (shiftRightArith_eq_ofInt _ _)⟩
  case rowSll | rowSrl | rowSra => exact rowDecodes_formatR (by decide) (fun _ => rfl) (fun _ => rfl)

/-- Settles O16: no clause lets a pair that selects an instruction through. -/
theorem unmatchedFunctPairsFault : Obligations.UnmatchedFunctPairsFault := by
  refine ⟨fun w hop h0 h20 => op_faultsIllegal hop ?funct7, fun w hop h20 hf3 => op_faultsIllegal hop ?subSra,
    fun w hop hf3 => op32_faultsIllegal hop ?funct3, fun w hop hf3 h0 => op32_faultsIllegal hop ?sllw,
    fun w hop _ h0 h20 => op32_faultsIllegal hop ?funct7W⟩
  case funct7 => omega
  case subSra | funct3 =>
    simp only [List.mem_cons, List.not_mem_nil, or_false] at hf3 ⊢
    omega
  case sllw => simp [hf3, h0]
  case funct7W => simp [h0, h20]

end Sys2Proof.Machine
end

section
/-! SUPPORT and O17, O18, O19. The nine word instructions (R140 to R153): their results in integers, the rows of the word shifts, and
the results as a function of the low words of the sources alone (R151). -/

namespace Sys2Proof.Machine

open Sys2Proof.Claims

/-! The template (R152) and the rows (R85). -/

/-- A meaning that writes back the sign extension of the 32-bit value `v` completes with it. -/
theorem completesWriting_of_writeBackWord {i : Instr} {s : State} {rd : RegIdx} {u v : BitVec 32}
    (h : exec i s = writeBackWord rd u s) (hv : u = v) : CompletesWriting i s rd (sext32 v) :=
  completesWriting_of_writeBack h (congrArg sext hv)

/-- A row of the word immediate shifts: the mask covers the whole of funct7 as well. -/
theorem rowDecodes_shift5 {mtch : InstrWord} {mk : InstrWord → Instr} (hm : mtch &&& 0xFE00707F#32 = mtch)
    (hwf : ∀ w, (mk w).wellFormed = true)
    (henc : ∀ w, encode (mk w) = encI (funct7Of mtch ++ shamt5Of w) (rs1Of w) (funct3Of mtch) (rdOf w) (opcodeOf mtch)) :
    RowDecodes mtch 0xFE00707F#32 mk :=
  rowDecodes_of_encode hwf fun w => by rw [mask_funct7 w mtch hm, henc, encI_shift5_eq_iff]

/-! Low words in integers. -/

theorem lowWord_eq_low32 (v : Word) : lowWord v = low32 v := rfl

/-- Wrapping to 64 bits first loses nothing of the low word. -/
theorem lowWord_ofInt (z : Int) : lowWord (BitVec.ofInt 64 z) = BitVec.ofInt 32 z := by
  apply BitVec.eq_of_toNat_eq
  rw [lowWord, toNat_field, BitVec.toNat_ofInt, BitVec.toNat_ofInt]
  omega

theorem lowWord_eq_ofInt (v : Word) : lowWord v = BitVec.ofInt 32 v.toInt := by
  rw [← lowWord_ofInt, BitVec.ofInt_toInt]

theorem lowWord_add_eq_ofInt (a b : Word) : lowWord (a + b) = BitVec.ofInt 32 (a.toInt + b.toInt) := by
  rw [add_eq_ofInt, lowWord_ofInt]

theorem lowWord_add_sext_eq_ofInt {n : Nat} (a : Word) (v : BitVec n) :
    lowWord (a + sext v) = BitVec.ofInt 32 (a.toInt + v.toInt) := by
  rw [add_sext_eq_ofInt, lowWord_ofInt]

theorem lowWord_sub_eq_ofInt (a b : Word) : lowWord (a - b) = BitVec.ofInt 32 (a.toInt - b.toInt) := by
  rw [sub_eq_ofInt, lowWord_ofInt]

/-- R153: the amount is the low 5 bits of the register. -/
theorem shiftAmount5_eq_mod (v : Word) : shiftAmount5 v = v.toNat % 32 := by
  simp only [shiftAmount5, toNat_field, pow_zero, Nat.div_one, Nat.reducePow]

/-! Low words of sums, differences and amounts by the low words of the operands. -/

theorem lowWord_add (a b : Word) : lowWord (a + b) = lowWord a + lowWord b := by
  rw [lowWord_add_eq_ofInt, BitVec.ofInt_add, ← lowWord_eq_ofInt, ← lowWord_eq_ofInt]

theorem lowWord_sub (a b : Word) : lowWord (a - b) = lowWord a - lowWord b := by
  rw [← BitVec.toInt_inj, lowWord_sub_eq_ofInt, lowWord_eq_ofInt, lowWord_eq_ofInt, BitVec.toInt_sub, BitVec.toInt_ofInt,
    BitVec.toInt_ofInt, BitVec.toInt_ofInt, Int.bmod_sub_bmod, Int.sub_bmod_bmod]

theorem shiftAmount5_eq_lowWord_mod (v : Word) : shiftAmount5 v = (lowWord v).toNat % 32 := by
  rw [shiftAmount5_eq_mod, lowWord, toNat_field]
  omega

/-! The results by the low words of the sources (R151). -/

theorem getLsbD_sext_above {n : Nat} (v : BitVec n) {j : Nat} (hpos : 0 < n) (hj : n ≤ j) (hj' : j < 64) :
    (sext v).getLsbD j = (sext v).getLsbD (n - 1) := by
  rw [getLsbD_sext v hj', getLsbD_sext v (by omega), if_neg (by omega), if_pos (by omega)]

/-- The 32-bit result of a word instruction from the low words `low` of the registers; 0 for any other instruction. -/
def wordResult (low : RegIdx → BitVec 32) : Instr → BitVec 32
  | .addiw _ rs1 imm => low rs1 + lowWord (sext imm)
  | .slliw _ rs1 shamt => shiftLeft (low rs1) shamt.toNat
  | .srliw _ rs1 shamt => shiftRight (low rs1) shamt.toNat
  | .sraiw _ rs1 shamt => shiftRightArith (low rs1) shamt.toNat
  | .addw _ rs1 rs2 => low rs1 + low rs2
  | .subw _ rs1 rs2 => low rs1 - low rs2
  | .sllw _ rs1 rs2 => shiftLeft (low rs1) ((low rs2).toNat % 32)
  | .srlw _ rs1 rs2 => shiftRight (low rs1) ((low rs2).toNat % 32)
  | .sraw _ rs1 rs2 => shiftRightArith (low rs1) ((low rs2).toNat % 32)
  | _ => 0

/-- Only the low words of the sources count. -/
theorem wordResult_congr {low low' : RegIdx → BitVec 32} {i : Instr} (hw : isWordInstr i = true)
    (h : ∀ r ∈ sources i, low r = low' r) : wordResult low i = wordResult low' i := by
  cases i with
  | addiw rd rs1 _ | slliw rd rs1 _ | srliw rd rs1 _ | sraiw rd rs1 _ =>
    have h1 : low rs1 = low' rs1 := h rs1 (List.mem_singleton_self rs1)
    simp only [wordResult, h1]
  | addw rd rs1 rs2 | subw rd rs1 rs2 | sllw rd rs1 rs2 | srlw rd rs1 rs2 | sraw rd rs1 rs2 =>
    have h1 : low rs1 = low' rs1 := h rs1 List.mem_cons_self
    have h2 : low rs2 = low' rs2 := h rs2 (List.mem_cons_of_mem rs1 List.mem_cons_self)
    simp only [wordResult, h1, h2]
  | _ => cases hw

/-- A word instruction writes back its `wordResult` (R151, R152). -/
theorem exec_wordInstr {i : Instr} {rd : RegIdx} (s : State) (hw : isWordInstr i = true) (hd : destination i = some rd) :
    exec i s = writeBackWord rd (wordResult (fun r => lowWord (s.x r)) i) s := by
  cases i with
  | slliw | srliw | sraiw => cases hd; rfl
  | addiw | addw => cases hd; exact congrArg (writeBackWord rd · s) (lowWord_add _ _)
  | subw => cases hd; exact congrArg (writeBackWord rd · s) (lowWord_sub _ _)
  | sllw | srlw | sraw =>
    cases hd
    simp only [exec, execSllw, execSrlw, execSraw, shiftAmount5_eq_lowWord_mod, wordResult]
  | _ => cases hw

theorem wordInstr_completesWriting {i : Instr} {rd : RegIdx} (s : State) (hw : isWordInstr i = true)
    (hd : destination i = some rd) : CompletesWriting i s rd (sext (wordResult (fun r => lowWord (s.x r)) i)) :=
  completesWriting_of_writeBack (exec_wordInstr s hw hd) rfl

/-- Settles O17: each of the four writes its 32-bit result back by the template (R152), and each row is its own encoding's. -/
theorem opImm32WritesItsResult : Obligations.OpImm32WritesItsResult := by
  refine ⟨fun rd rs1 imm s => ?addiw, fun rd rs1 shamt s => ⟨?slliw, ?srliw, ?sraiw⟩, ?rowAddiw, ?rowSlliw, ?rowSrliw, ?rowSraiw⟩
  case addiw => exact completesWriting_of_writeBackWord rfl (lowWord_add_sext_eq_ofInt _ imm)
  case slliw => exact completesWriting_of_writeBackWord rfl (shiftLeft_eq_ofNat _ _)
  case srliw => exact completesWriting_of_writeBackWord rfl (shiftRight_eq_ofNat _ _)
  case sraiw => exact completesWriting_of_writeBackWord rfl (shiftRightArith_eq_ofInt _ _)
  case rowAddiw => exact rowDecodes_formatI (by decide) (fun _ => rfl) (fun _ => rfl)
  case rowSlliw | rowSrliw | rowSraiw => exact rowDecodes_shift5 (by decide) (fun _ => rfl) (fun _ => rfl)

/-- Settles O18: as O17 for the register forms, whose shift amount is the register's value mod 32. -/
theorem op32WritesItsResult : Obligations.Op32WritesItsResult := by
  refine ⟨fun rd rs1 rs2 s => ⟨?addw, ?subw, ?shifts⟩, ?rows⟩
  case addw => exact completesWriting_of_writeBackWord rfl (lowWord_add_eq_ofInt _ _)
  case subw => exact completesWriting_of_writeBackWord rfl (lowWord_sub_eq_ofInt _ _)
  case shifts =>
    rw [← shiftAmount5_eq_mod]
    exact ⟨completesWriting_of_writeBackWord rfl (shiftLeft_eq_ofNat _ _),
      completesWriting_of_writeBackWord rfl (shiftRight_eq_ofNat _ _),
      completesWriting_of_writeBackWord rfl (shiftRightArith_eq_ofInt _ _)⟩
  case rows =>
    refine ⟨?_, ?_, ?_, ?_, ?_⟩ <;> exact rowDecodes_formatR (by decide) (fun _ => rfl) (fun _ => rfl)

/-- Settles O19: what is written is the sign extension of `wordResult`, which reads nothing but the low words of the sources. -/
theorem wordResultsAreSignExtended : Obligations.WordResultsAreSignExtended := by
  refine ⟨fun i s rd hw hd hrd => ?copies, fun i s u rd hw hd hlow => ?lowOnly⟩
  case copies =>
    obtain ⟨t, ht, hx, -⟩ := wordInstr_completesWriting s hw hd
    rw [if_neg hrd] at hx
    refine ⟨t, ht, fun j hj hj' => ?_⟩
    rw [hx]
    exact getLsbD_sext_above _ (by decide) hj hj'
  case lowOnly =>
    obtain ⟨s', hs', hx, -⟩ := wordInstr_completesWriting s hw hd
    obtain ⟨u', hu', hy, -⟩ := wordInstr_completesWriting u hw hd
    simp only [← lowWord_eq_low32] at hlow
    refine ⟨s', u', hs', hu', ?_⟩
    rw [hx, hy, wordResult_congr hw hlow]

end Sys2Proof.Machine
end

section
/-! SUPPORT and O20, O22, O23, O33. The jumps and the branches (43_control_flow.md): what a checked target leaves of the state, the
words whose funct3 selects nothing (R169, R194), and the misaligned fault by the rule of the pc (R160, R221). -/

namespace Sys2Proof.Machine

open Sys2Proof.Claims

/-! The templates (R161, R173). -/

theorem completesAt_of_setPc {i : Instr} {s : State} {p : Word} (h : exec i s = .next (s.setPc p)) : CompletesAt i s p :=
  ⟨s.setPc p, h, State.x_setPc s p, rfl, rfl, fun _ => rfl⟩

/-- A meaning that is a jump with link to `tgt` writes the link and the pc, or faults, by the target alone. -/
theorem jumpRule_of_jumpAndLink {i : Instr} {s : State} {rd : RegIdx} {u tgt : Word} (h : exec i s = jumpAndLink rd u s)
    (hu : u = tgt) : JumpRule i s rd tgt := by
  rw [hu, jumpAndLink_eq] at h
  refine ⟨fun haligned => ?_, fun hmisaligned => ?_⟩
  · rw [(aligned_iff tgt).2 haligned] at h
    refine ⟨_, h, State.x_setX_self s rd (s.pc + 4), fun r hr => State.x_setX_other s _ hr, rfl, ?_⟩
    rw [State.setPc_mem, State.setX_mem]
    exact ⟨rfl, fun _ => rfl⟩
  · rw [h, if_pos ((misaligned_iff tgt).2 hmisaligned)]

/-- A meaning that is a conditional branch on `c` falls through, jumps or faults; it writes the pc only. -/
theorem branchRule_of_branchIf {i : Instr} {s : State} {c : Bool} {p : Prop} {off : BitVec 13} (h : exec i s = branchIf c off s)
    (hc : c = true ↔ p) : BranchRule i s p off := by
  rw [branchIf_eq, relativeTarget_eq_relTarget] at h
  refine ⟨fun hp => ?fallThrough, fun hp haligned => ?jump, fun hp hmisaligned => ?fault⟩
  case fallThrough =>
    rw [if_pos (Bool.eq_false_of_not_eq_true (mt hc.1 hp))] at h
    exact completesAt_of_setPc h
  case jump =>
    rw [hc.2 hp, (aligned_iff _).2 haligned] at h
    exact completesAt_of_setPc h
  case fault =>
    rw [h, hc.2 hp, (misaligned_iff _).2 hmisaligned]
    rfl

/-! Relative targets modulo 4. -/

theorem toInt_emod_four {n : Nat} (v : BitVec n) (hn : 2 ≤ n) : v.toInt % 4 = (v.toNat : Int) % 4 := by
  have hdvd : (4 : Int) ∣ (2 ^ n : Nat) := by
    rw [Nat.cast_pow]
    exact pow_dvd_pow 2 hn
  rw [← Int.emod_emod_of_dvd _ hdvd, BitVec.toInt_eq_toNat_bmod, Int.bmod_emod, Int.emod_emod_of_dvd _ hdvd]

/-- Neither the sign of the offset nor the wrap-around at 2^64 reaches the low two bits. -/
theorem relTarget_mod_four {n : Nat} (s : State) (off : BitVec n) (hn : 2 ≤ n) :
    (relTarget s off).toNat % 4 = (s.pc.toNat + off.toNat) % 4 := by
  have hpc : s.pc.toInt % 4 = (s.pc.toNat : Int) % 4 := toInt_emod_four s.pc (by decide)
  have hoff : off.toInt % 4 = (off.toNat : Int) % 4 := toInt_emod_four off hn
  rw [relTarget, BitVec.toNat_ofInt]
  omega

/-- From an aligned pc, bit 1 of an even offset decides whether the target is misaligned (R161). -/
theorem relTarget_misaligned_iff {n : Nat} {s : State} {off : BitVec n} (hn : 2 ≤ n) (heven : evenOffset off = true)
    (hpc : s.pc.toNat % 4 = 0) : (relTarget s off).toNat % 4 ≠ 0 ↔ off.getLsbD 1 = true := by
  rw [relTarget_mod_four s off hn]
  simp only [evenOffset, BitVec.getLsbD, Nat.testBit_eq_decide_div_mod_eq, Bool.not_eq_true', decide_eq_false_iff_not,
    decide_eq_true_eq] at heven ⊢
  omega

/-! The misaligned fault (R160, R221). -/

/-- The fault of the rule is that of a misaligned target; the default advance has none. -/
theorem PcRule.eq_fault_iff {s : State} {o : Option Word} {r : Result} (h : PcRule s o r) :
    r = .fault .instructionAddressMisaligned ↔ ∃ tgt, o = some tgt ∧ tgt.toNat % 4 ≠ 0 := by
  refine ⟨?_, ?_⟩
  · rintro rfl
    cases h with
    | fault hmisaligned => exact ⟨_, rfl, hmisaligned⟩
  · rintro ⟨tgt, rfl, htgt⟩
    exact h.eq_fault htgt

theorem exec_eq_misaligned_iff (i : Instr) (s : State) :
    exec i s = .fault .instructionAddressMisaligned ↔ ∃ tgt, jumpTarget s i = some tgt ∧ tgt.toNat % 4 ≠ 0 :=
  (exec_pcRule i s).eq_fault_iff

/-- A word with this fault is an instruction, and the fault is that of the instruction's meaning. -/
theorem execute_eq_misaligned_iff (w : InstrWord) (s : State) :
    execute w s = .fault .instructionAddressMisaligned ↔
      ∃ i, decode w = .ok i ∧ exec i s = .fault .instructionAddressMisaligned := by
  unfold execute
  cases decode w with
  | ok j => simp
  | error e => simp [raise_eq]

/-! The rows of format B (R85), and the funct3 values that select nothing (R169, R194). -/

/-- A row of format B: the mask covers opcode and funct3. -/
theorem rowDecodes_formatB {mtch : InstrWord} {mk : InstrWord → Instr} (hm : mtch &&& 0x0000707F#32 = mtch)
    (hwf : ∀ w, (mk w).wellFormed = true)
    (henc : ∀ w, encode (mk w) = encB (gatherB w) (rs2Of w) (rs1Of w) (funct3Of mtch) (opcodeOf mtch)) :
    RowDecodes mtch 0x0000707F#32 mk :=
  rowDecodes_of_encode hwf fun w => by rw [mask_funct3 w mtch hm, henc, encB_operands_eq_iff]

theorem decode_eq_decodeBranch {w : InstrWord} (hop : opcodeOf w = 0b1100011#7) : decode w = decodeBranch w := by
  simp only [decode, hop]

theorem decode_eq_decodeLoad {w : InstrWord} (hop : opcodeOf w = 0b0000011#7) : decode w = decodeLoad w := by
  simp only [decode, hop]

theorem decode_eq_decodeStore {w : InstrWord} (hop : opcodeOf w = 0b0100011#7) : decode w = decodeStore w := by
  simp only [decode, hop]

theorem decodeBranch_eq_error {w : InstrWord} (hf3 : funct3Num w = 2 ∨ funct3Num w = 3) :
    decodeBranch w = .error .branchFunct3 := by
  obtain h2 | h3 := hf3
  · rw [decodeBranch, (funct3Of_eq_iff w 2#3).2 h2]
    rfl
  · rw [decodeBranch, (funct3Of_eq_iff w 3#3).2 h3]
    rfl

theorem decodeLoad_eq_error {w : InstrWord} (hf3 : funct3Num w = 7) : decodeLoad w = .error .loadFunct3 := by
  rw [decodeLoad, (funct3Of_eq_iff w 7#3).2 hf3]
  rfl

/-- The arms of STORE are those of funct3 0 to 3; from 4 on every value falls through. -/
theorem decodeStore_eq_error {w : InstrWord} (hf3 : 4 ≤ funct3Num w) : decodeStore w = .error .storeFunct3 := by
  unfold decodeStore
  split
  case h_1 h | h_2 h | h_3 h | h_4 h =>
    rw [(funct3Of_eq_iff ..).1 h] at hf3
    exact absurd hf3 (by decide)
  case h_5 => rfl

theorem branch_faultsIllegal {w : InstrWord} (hop : opcodeNum w = 0x63) (hf3 : funct3Num w = 2 ∨ funct3Num w = 3) :
    FaultsIllegal w :=
  faultsIllegal_of_decode_error ((decode_eq_decodeBranch ((opcodeOf_eq_iff ..).2 hop)).trans (decodeBranch_eq_error hf3))

theorem load_faultsIllegal {w : InstrWord} (hop : opcodeNum w = 0x03) (hf3 : funct3Num w = 7) : FaultsIllegal w :=
  faultsIllegal_of_decode_error ((decode_eq_decodeLoad ((opcodeOf_eq_iff ..).2 hop)).trans (decodeLoad_eq_error hf3))

theorem store_faultsIllegal {w : InstrWord} (hop : opcodeNum w = 0x23) (hf3 : 4 ≤ funct3Num w) : FaultsIllegal w :=
  faultsIllegal_of_decode_error ((decode_eq_decodeStore ((opcodeOf_eq_iff ..).2 hop)).trans (decodeStore_eq_error hf3))

/-- Settles O20: JAL is the jump with link to its relative target, which bit 1 of the offset alone can misalign. -/
theorem jalLinksAndJumps : Obligations.JalLinksAndJumps := by
  refine ⟨fun rd off s => ?rule, fun rd off s heven hpc => ?bitOne, ?row⟩
  case rule => exact jumpRule_of_jumpAndLink rfl (relativeTarget_eq_relTarget s off)
  case bitOne =>
    rw [← relTarget_misaligned_iff (by decide) heven hpc, exec_eq_misaligned_iff]
    simp only [jumpTarget, Option.some.injEq, exists_eq_left']
  case row =>
    refine rowDecodes_of_encode gatherJ_even fun w => ?_
    rw [mask_opcode w _ (by decide), encode, encJ_operands_eq_iff]
    rfl

/-- Settles O22: each of the six is the branch on its condition, and each row is its own encoding's. -/
theorem branchesTakeOrFallThrough : Obligations.BranchesTakeOrFallThrough := by
  refine ⟨fun rs1 rs2 off s => ⟨?beq, ?bne, ?blt, ?bge, ?bltu, ?bgeu⟩, ?rows⟩
  case beq => exact branchRule_of_branchIf rfl (condEq_iff _ _)
  case bne => exact branchRule_of_branchIf rfl (condNe_iff _ _)
  case blt => exact branchRule_of_branchIf rfl (condLt_iff _ _)
  case bge => exact branchRule_of_branchIf rfl ((condGe_iff _ _).trans not_lt.symm)
  case bltu => exact branchRule_of_branchIf rfl (condLtu_iff _ _)
  case bgeu => exact branchRule_of_branchIf rfl ((condGeu_iff _ _).trans not_lt.symm)
  case rows =>
    refine ⟨?_, ?_, ?_, ?_, ?_, ?_⟩ <;> exact rowDecodes_formatB (by decide) gatherB_even (fun _ => rfl)

/-- Settles O23: no arm of the three decoders has these values. -/
theorem undefinedFunct3Faults : Obligations.UndefinedFunct3Faults :=
  ⟨fun _ => branch_faultsIllegal, fun _ => load_faultsIllegal, fun _ => store_faultsIllegal⟩

/-- Settles O33: the rule of the pc faults exactly on a misaligned target, and a word does what it decodes to. -/
theorem misalignedFaultExactlyOnMisalignedTargets : Obligations.MisalignedFaultExactlyOnMisalignedTargets := by
  refine ⟨exec_eq_misaligned_iff, fun w s => ?_⟩
  simp only [execute_eq_misaligned_iff, exec_eq_misaligned_iff, exists_and_left]

end Sys2Proof.Machine
end

section
/-! SUPPORT and O24, O25. The seven loads and the four stores (44_load_store.md): the effective address in integers (R180), the
conversion of a load's answer (R181), a store's truncated data (R182), their templates (R195) and the rows of format S. -/

namespace Sys2Proof.Machine

open Sys2Proof.Claims

/-! The address, a load's value and a store's data (R180 to R182). -/

theorem effectiveAddress_eq_address (s : State) (rs1 : RegIdx) (imm : BitVec 12) :
    effectiveAddress s rs1 imm = address s rs1 imm :=
  add_sext_eq_ofInt (s.x rs1) imm

theorem convertLoad_sign_eq_ofInt (m : Memory) (w : Width) (a : Addr) :
    convertLoad w .sign (busAnswer m (.load w a)) = BitVec.ofInt 64 (memRead m a (widthBytes w)).toInt := by
  rw [convertLoad_busAnswer, sext_eq_ofInt]

theorem convertLoad_zero_eq_ofNat (m : Memory) (w : Width) (a : Addr) :
    convertLoad w .zero (busAnswer m (.load w a)) = BitVec.ofNat 64 (memRead m a (widthBytes w)).toNat := by
  rw [convertLoad_busAnswer, zext, BitVec.ofNat_toNat]

/-- An answer of 64 bits has nothing to extend (R186). -/
theorem convertLoad_double_zero (m : Memory) (a : Addr) :
    convertLoad .double .zero (busAnswer m (.load .double a)) = memRead m a 8 := by
  rw [convertLoad_zero_eq_ofNat, BitVec.ofNat_toNat]
  exact BitVec.setWidth_eq _

theorem lowBits_eq_ofNat (v : Word) {len : Nat} (hlen : len ≤ 64) : v.extractLsb' 0 len = BitVec.ofNat len v.toNat := by
  rw [← BitVec.setWidth_eq_extractLsb' hlen, BitVec.ofNat_toNat]

/-! The templates (R195). -/

/-- A meaning that is a load completes with the converted answer of the bus at its address, changing nothing else. -/
theorem completesWriting_of_loadInto {i : Instr} {s : State} {w : Width} {e : LoadExt} {rd rs1 : RegIdx} {imm : BitVec 12}
    {v : Word} (h : exec i s = loadInto w e rd rs1 imm s)
    (hv : convertLoad w e (busAnswer s.mem (.load w (address s rs1 imm))) = v) : CompletesWriting i s rd v :=
  completesWriting_of_writeBack h (by rw [loadRequest, effectiveAddress_eq_address, hv])

/-- A meaning that is a store completes with one `MemWrite` of the register's low bits at its address, and writes no register. -/
theorem completesStoring_of_storeFrom {i : Instr} {s : State} (w : Width) {rs1 rs2 : RegIdx} {imm : BitVec 12}
    {v : BitVec (8 * widthBytes w)} (h : exec i s = storeFrom w rs1 rs2 imm s)
    (hv : (s.x rs2).extractLsb' 0 (8 * widthBytes w) = v) :
    CompletesStoring i s (address s rs1 imm) (widthBytes w) v := by
  rw [storeFrom_eq, storeRequest, busPerform_storeData, effectiveAddress_eq_address, hv] at h
  exact ⟨_, h, fun _ => rfl, rfl, rfl⟩

/-! The rows (R85). -/

/-- A row of format S: the mask covers opcode and funct3. -/
theorem rowDecodes_formatS {mtch : InstrWord} {mk : InstrWord → Instr} (hm : mtch &&& 0x0000707F#32 = mtch)
    (hwf : ∀ w, (mk w).wellFormed = true)
    (henc : ∀ w, encode (mk w) = encS (gatherS w) (rs2Of w) (rs1Of w) (funct3Of mtch) (opcodeOf mtch)) :
    RowDecodes mtch 0x0000707F#32 mk :=
  rowDecodes_of_encode hwf fun w => by rw [mask_funct3 w mtch hm, henc, encS_operands_eq_iff]

/-- Settles O24: each of the seven is the load of its width and extension, and each row is its own encoding's. -/
theorem loadsWriteTheConvertedAnswer : Obligations.LoadsWriteTheConvertedAnswer := by
  refine ⟨fun rd rs1 imm s => ⟨?lb, ?lh, ?lw, ?ld, ?lbu, ?lhu, ?lwu⟩, ?rows⟩
  case lb | lh | lw => exact completesWriting_of_loadInto rfl (convertLoad_sign_eq_ofInt ..)
  case ld => exact completesWriting_of_loadInto rfl (convertLoad_double_zero ..)
  case lbu | lhu | lwu => exact completesWriting_of_loadInto rfl (convertLoad_zero_eq_ofNat ..)
  case rows =>
    refine ⟨?_, ?_, ?_, ?_, ?_, ?_, ?_⟩ <;> exact rowDecodes_formatI (by decide) (fun _ => rfl) (fun _ => rfl)

/-- Settles O25: each of the four is the store of its width, and each row is its own encoding's. -/
theorem storesIssueTheTruncatedData : Obligations.StoresIssueTheTruncatedData := by
  refine ⟨fun rs1 rs2 imm s => ⟨?sb, ?sh, ?sw, ?sd⟩, ?rows⟩
  case sb => exact completesStoring_of_storeFrom .byte rfl (lowBits_eq_ofNat _ (by decide))
  case sh => exact completesStoring_of_storeFrom .half rfl (lowBits_eq_ofNat _ (by decide))
  case sw => exact completesStoring_of_storeFrom .word rfl (lowBits_eq_ofNat _ (by decide))
  case sd => exact completesStoring_of_storeFrom .double rfl BitVec.extractLsb'_eq_self
  case rows =>
    refine ⟨?_, ?_, ?_, ?_⟩ <;> exact rowDecodes_formatS (by decide) (fun _ => rfl) (fun _ => rfl)

end Sys2Proof.Machine
end

section
/-! SUPPORT and O30. FENCE (46_fence_system.md R210, R211): its meaning as one state update, and the row of its words. -/

namespace Sys2Proof.Machine

open Sys2Proof.Claims

/-- FENCE is the default advance of the pc; no field of it reaches the outcome. -/
theorem exec_fence (fm pred succ : BitVec 4) (rs1 rd : RegIdx) (s : State) :
    exec (.fence fm pred succ rs1 rd) s = .next (s.setPc (s.pc + 4)) := rfl

/-- FENCE's row is of format I: fm, pred and succ side by side are the immediate's field. -/
theorem rowDecodes_fence : RowDecodes 0x0000000F#32 0x0000707F#32
    (fun w => .fence (w.extractLsb' 28 4) (w.extractLsb' 24 4) (w.extractLsb' 20 4) (rs1Of w) (rdOf w)) :=
  rowDecodes_formatI (by decide) (fun _ => rfl) fun w => by
    rw [encode, fence_fields]
    rfl

/-- Every word of the row has FENCE's one outcome, whatever stands in its other bits. -/
theorem execute_fenceWord {w : InstrWord} (s : State) (hw : w &&& 0x0000707F#32 = 0x0000000F#32) :
    execute w s = .next (s.setPc (s.pc + 4)) := by
  rw [execute, (rowDecodes_fence w).1 hw]
  exact exec_fence ..

/-- Settles O30: FENCE is the default advance, its row is its own encoding's, and all words of the row share that outcome. -/
theorem fenceOnlyAdvancesThePc : Obligations.FenceOnlyAdvancesThePc := by
  refine ⟨fun fm pred succ rs1 rd s => ?advance, rowDecodes_fence, fun w s hw => ?sameOutcome⟩
  case advance => exact completesAt_of_setPc (exec_fence fm pred succ rs1 rd s)
  case sameOutcome =>
    have hplain : execute 0x0000000F#32 s = .next (s.setPc (s.pc + 4)) := execute_fenceWord s (by decide)
    rw [execute_fenceWord s hw, hplain]

end Sys2Proof.Machine
end

section
/-! SUPPORT and O34, O35. The outcomes of a step (60_exceptions.md R222, R223): by the rule of the pc an instruction commits or has
the misaligned fault, and one that issues a bus operation commits, because it sets no target. -/

namespace Sys2Proof.Machine

open Sys2Proof.Claims

/-! What the rule of the pc says of the kind of an outcome. -/

theorem PcRule.commits_or_misaligned {s : State} {o : Option Word} {r : Result} (h : PcRule s o r) :
    (∃ t, r = .next t) ∨ r = .fault .instructionAddressMisaligned := by
  cases h with
  | advance | jump => exact .inl ⟨_, rfl⟩
  | fault => exact .inr rfl

/-- Without a target there is nothing to fault on. -/
theorem PcRule.commits {s : State} {r : Result} (h : PcRule s none r) : ∃ t, r = .next t := by
  cases h with
  | advance => exact ⟨_, rfl⟩

/-! The outcome of a word, and of an instruction with a bus operation. -/

/-- A word that is an instruction has that instruction's outcome (R38). -/
theorem execute_ok {w : InstrWord} {i : Instr} (s : State) (h : decode w = .ok i) : execute w s = exec i s := by
  rw [execute, h]

/-- Only loads and stores issue a bus operation (R44), and they set no target. -/
theorem jumpTarget_eq_none_of_busRequest {i : Instr} {s : State} {r : BusRequest} (h : busRequest i s = some r) :
    jumpTarget s i = none := by
  cases i with
  | lb | lh | lw | ld | lbu | lhu | lwu | sb | sh | sw | sd => rfl
  | _ => cases h

/-- Whatever issues a bus operation commits (R195). -/
theorem exec_commits_of_busRequest {i : Instr} {s : State} {r : BusRequest} (h : busRequest i s = some r) :
    ∃ t, exec i s = .next t :=
  (jumpTarget_eq_none_of_busRequest h ▸ exec_pcRule i s).commits

theorem busRequest_eq_none_of_fault {i : Instr} {s : State} {f : Fault} (h : exec i s = .fault f) : busRequest i s = none := by
  cases hreq : busRequest i s with
  | none => rfl
  | some r =>
    obtain ⟨t, ht⟩ := exec_commits_of_busRequest hreq
    cases h.symm.trans ht

/-- Settles O34: a word that is no instruction has the one fault, an instruction commits or has the other. -/
theorem everyStepHasOneOutcome : Obligations.EveryStepHasOneOutcome := by
  intro w s
  cases hdec : decode w with
  | error e => exact .inr (.inl (faultsIllegal_of_decode_error hdec s).1)
  | ok i =>
    rw [execute_ok s hdec]
    obtain ⟨t, ht⟩ | hmisaligned := (exec_pcRule i s).commits_or_misaligned
    · exact .inl ⟨t, ht, by rw [ht, stateAfter]⟩
    · exact .inr (.inr hmisaligned)

/-- Settles O35: after a fault the caller holds the state before it, and whatever issues a bus operation commits. -/
theorem faultCommitsNothing : Obligations.FaultCommitsNothing := by
  refine fun w s f hfault => ⟨?unchanged, fun i hdec => ?noBusOperation⟩
  case unchanged => rw [hfault, stateAfter]
  case noBusOperation => exact busRequest_eq_none_of_fault ((execute_ok s hdec).symm.trans hfault)

end Sys2Proof.Machine
end

section
/-! SUPPORT and O21, O29. JALR (43_control_flow.md, Jumps), LUI and AUIPC (45_upper_immediate.md): the upper immediate in integers
(R69) and the rows of format U. -/

namespace Sys2Proof.Machine

open Sys2Proof.Claims

/-- Twelve zero bits below the field make its value 4096 times as large. -/
theorem upperImmediate_eq_ofInt (imm20 : BitVec 20) : upperImmediate imm20 = BitVec.ofInt 64 (imm20.toInt * 4096) := by
  rw [upperImmediate, sext_eq_ofInt, BitVec.toInt_append_zero, mul_comm]
  rfl

/-- A row of format U: the mask covers the opcode only. -/
theorem rowDecodes_formatU {mtch : InstrWord} {mk : InstrWord → Instr} (hm : mtch &&& 0x0000007F#32 = mtch)
    (hwf : ∀ w, (mk w).wellFormed = true) (henc : ∀ w, encode (mk w) = encU (gatherU w) (rdOf w) (opcodeOf mtch)) :
    RowDecodes mtch 0x0000007F#32 mk :=
  rowDecodes_of_encode hwf fun w => by rw [mask_opcode w mtch hm, henc, encU_operands_eq_iff]

/-- Settles O21: JALR is the jump with link to the sum with bit 0 cleared, and its row is its own encoding's. -/
theorem jalrLinksAndJumps : Obligations.JalrLinksAndJumps :=
  ⟨fun _ rs1 imm s => jumpRule_of_jumpAndLink rfl (jalrTarget_eq_evenSum s rs1 imm),
    rowDecodes_formatI (by decide) (fun _ => rfl) (fun _ => rfl)⟩

/-- Settles O29: both write their result back by the template (R202), and each row is its own encoding's. -/
theorem upperImmediatesWriteTheirResult : Obligations.UpperImmediatesWriteTheirResult := by
  refine ⟨fun rd imm20 s => ⟨?lui, ?auipc⟩, ?rowLui, ?rowAuipc⟩
  case lui => exact completesWriting_of_writeBack rfl (upperImmediate_eq_ofInt imm20)
  case auipc =>
    refine completesWriting_of_writeBack rfl ?_
    rw [BitVec.ofInt_add, BitVec.ofInt_toInt, upperImmediate_eq_ofInt]
  case rowLui | rowAuipc => exact rowDecodes_formatU (by decide) (fun _ => rfl) (fun _ => rfl)

end Sys2Proof.Machine
end

section
/-! SUPPORT and O8, O9, O10, O11. The opcode table (R85) against the decoder: each row is the set of words that decode to an
instruction of the row's mnemonic, and each instruction has its row; and the words that are no instruction (R83, R220). -/

namespace Sys2Proof.Machine

open Sys2Proof.Claims

/-! The fault of a word that is no instruction. -/

/-- R220, R227: a word is IllegalInstruction exactly when it does not decode; the state has no part in it. -/
theorem execute_eq_illegal_iff (w : InstrWord) (s : State) :
    execute w s = .fault .illegalInstruction ↔ ∃ e, decode w = .error e := by
  refine ⟨fun hfault => ?_, fun ⟨e, he⟩ => (faultsIllegal_of_decode_error he s).1⟩
  cases hdec : decode w with
  | error e => exact ⟨e, rfl⟩
  | ok i =>
    rw [execute_ok s hdec] at hfault
    obtain ⟨t, ht⟩ | hmisaligned := (exec_pcRule i s).commits_or_misaligned
    · cases hfault.symm.trans ht
    · cases hfault.symm.trans hmisaligned

theorem faultsIllegal_iff (w : InstrWord) : FaultsIllegal w ↔ ∃ e, decode w = .error e :=
  ⟨fun h => (execute_eq_illegal_iff w State.reset).1 (h State.reset).1, fun ⟨_, he⟩ => faultsIllegal_of_decode_error he⟩

/-! From a row to the instructions of its mnemonic. -/

/-- The row decodes to one instruction form, and the form has the row's mnemonic. -/
def RowNamesItsInstruction (p : String × InstrWord × InstrWord) : Prop :=
  ∃ mk, RowDecodes p.2.1 p.2.2 mk ∧ ∀ w, (mk w).mnemonic = p.1

theorem upperAndJumps_rows : ∀ p ∈ tableUpperAndJumps, RowNamesItsInstruction p := by
  obtain ⟨-, lui, auipc⟩ := upperImmediatesWriteTheirResult
  obtain ⟨-, -, jal⟩ := jalLinksAndJumps
  obtain ⟨-, jalr⟩ := jalrLinksAndJumps
  simp only [tableUpperAndJumps, List.forall_mem_cons]
  exact ⟨⟨_, lui, fun _ => rfl⟩, ⟨_, auipc, fun _ => rfl⟩, ⟨_, jal, fun _ => rfl⟩, ⟨_, jalr, fun _ => rfl⟩,
    List.forall_mem_nil _⟩

theorem branches_rows : ∀ p ∈ tableBranches, RowNamesItsInstruction p := by
  obtain ⟨-, beq, bne, blt, bge, bltu, bgeu⟩ := branchesTakeOrFallThrough
  simp only [tableBranches, List.forall_mem_cons]
  exact ⟨⟨_, beq, fun _ => rfl⟩, ⟨_, bne, fun _ => rfl⟩, ⟨_, blt, fun _ => rfl⟩, ⟨_, bge, fun _ => rfl⟩,
    ⟨_, bltu, fun _ => rfl⟩, ⟨_, bgeu, fun _ => rfl⟩, List.forall_mem_nil _⟩

theorem loadsAndStores_rows : ∀ p ∈ tableLoadsAndStores, RowNamesItsInstruction p := by
  obtain ⟨-, lb, lh, lw, ld, lbu, lhu, lwu⟩ := loadsWriteTheConvertedAnswer
  obtain ⟨-, sb, sh, sw, sd⟩ := storesIssueTheTruncatedData
  simp only [tableLoadsAndStores, List.forall_mem_cons]
  exact ⟨⟨_, lb, fun _ => rfl⟩, ⟨_, lh, fun _ => rfl⟩, ⟨_, lw, fun _ => rfl⟩, ⟨_, ld, fun _ => rfl⟩, ⟨_, lbu, fun _ => rfl⟩,
    ⟨_, lhu, fun _ => rfl⟩, ⟨_, lwu, fun _ => rfl⟩, ⟨_, sb, fun _ => rfl⟩, ⟨_, sh, fun _ => rfl⟩, ⟨_, sw, fun _ => rfl⟩,
    ⟨_, sd, fun _ => rfl⟩, List.forall_mem_nil _⟩

theorem opImm_rows : ∀ p ∈ tableOpImm, RowNamesItsInstruction p := by
  obtain ⟨-, addi, slti, sltiu, xori, ori, andi⟩ := opImmArithmeticWritesItsResult
  obtain ⟨-, slli, srli, srai, -⟩ := opImmShiftsWriteTheirResult
  simp only [tableOpImm, List.forall_mem_cons]
  exact ⟨⟨_, addi, fun _ => rfl⟩, ⟨_, slti, fun _ => rfl⟩, ⟨_, sltiu, fun _ => rfl⟩, ⟨_, xori, fun _ => rfl⟩,
    ⟨_, ori, fun _ => rfl⟩, ⟨_, andi, fun _ => rfl⟩, ⟨_, slli, fun _ => rfl⟩, ⟨_, srli, fun _ => rfl⟩, ⟨_, srai, fun _ => rfl⟩,
    List.forall_mem_nil _⟩

theorem op_rows : ∀ p ∈ tableOp, RowNamesItsInstruction p := by
  obtain ⟨-, add, sub, slt, sltu, xor, or, and⟩ := opArithmeticWritesItsResult
  obtain ⟨-, sll, srl, sra⟩ := opShiftsWriteTheirResult
  simp only [tableOp, List.forall_mem_cons]
  exact ⟨⟨_, add, fun _ => rfl⟩, ⟨_, sub, fun _ => rfl⟩, ⟨_, sll, fun _ => rfl⟩, ⟨_, slt, fun _ => rfl⟩, ⟨_, sltu, fun _ => rfl⟩,
    ⟨_, xor, fun _ => rfl⟩, ⟨_, srl, fun _ => rfl⟩, ⟨_, sra, fun _ => rfl⟩, ⟨_, or, fun _ => rfl⟩, ⟨_, and, fun _ => rfl⟩,
    List.forall_mem_nil _⟩

theorem wordAndFence_rows : ∀ p ∈ tableWordAndFence, RowNamesItsInstruction p := by
  obtain ⟨-, -, addiw, slliw, srliw, sraiw⟩ := opImm32WritesItsResult
  obtain ⟨-, addw, subw, sllw, srlw, sraw⟩ := op32WritesItsResult
  simp only [tableWordAndFence, List.forall_mem_cons]
  exact ⟨⟨_, addiw, fun _ => rfl⟩, ⟨_, slliw, fun _ => rfl⟩, ⟨_, srliw, fun _ => rfl⟩, ⟨_, sraiw, fun _ => rfl⟩,
    ⟨_, addw, fun _ => rfl⟩, ⟨_, subw, fun _ => rfl⟩, ⟨_, sllw, fun _ => rfl⟩, ⟨_, srlw, fun _ => rfl⟩, ⟨_, sraw, fun _ => rfl⟩,
    ⟨_, rowDecodes_fence, fun _ => rfl⟩, List.forall_mem_nil _⟩

theorem opcodeTable_rows : ∀ p ∈ opcodeTable, RowNamesItsInstruction p := by
  simp only [opcodeTable, List.forall_mem_append]
  exact ⟨⟨⟨⟨⟨upperAndJumps_rows, branches_rows⟩, loadsAndStores_rows⟩, opImm_rows⟩, op_rows⟩, wordAndFence_rows⟩

theorem decodes_of_row {p : String × InstrWord × InstrWord} (hp : p ∈ opcodeTable) {w : InstrWord} (hw : w &&& p.2.2 = p.2.1) :
    ∃ i, decode w = .ok i ∧ i.mnemonic = p.1 := by
  obtain ⟨mk, hrow, hname⟩ := opcodeTable_rows p hp
  exact ⟨mk w, (hrow w).1 hw, hname w⟩

/-! From an instruction to its row. -/

open Sys2Proof.Laws.TableRow in
/-- Each constructor's own lemma. -/
theorem instr_has_row (i : Instr) : Statement i :=
  i.casesOn lui auipc jal jalr beq bne blt bge bltu bgeu lb lh lw ld lbu lhu lwu sb sh sw sd addi slti sltiu xori ori andi slli
    srli srai add sub sll slt sltu xor srl sra or and addiw slliw srliw sraiw addw subw sllw srlw sraw fence

theorem row_of_decode {w : InstrWord} {i : Instr} (h : decode w = .ok i) :
    ∃ p ∈ opcodeTable, p.1 = i.mnemonic ∧ w &&& p.2.2 = p.2.1 := by
  obtain ⟨mtch, mask, hmem, hmatch⟩ := instr_has_row i
  rw [(encode_of_decode h).2] at hmatch
  exact ⟨_, hmem, rfl, hmatch⟩

theorem mnemonics_nodup : (opcodeTable.map Prod.fst).Nodup := by decide

/-- The mnemonic names the row. -/
theorem row_eq_of_mnemonic_eq {p q : String × InstrWord × InstrWord} (hp : p ∈ opcodeTable) (hq : q ∈ opcodeTable)
    (h : p.1 = q.1) : p = q :=
  List.inj_on_of_nodup_map mnemonics_nodup hp hq h

theorem row_iff_decodes {p : String × InstrWord × InstrWord} (hp : p ∈ opcodeTable) (w : InstrWord) :
    w &&& p.2.2 = p.2.1 ↔ ∃ i, decode w = .ok i ∧ i.mnemonic = p.1 := by
  refine ⟨decodes_of_row hp, fun ⟨i, hdec, hname⟩ => ?_⟩
  obtain ⟨q, hq, hqname, hmatch⟩ := row_of_decode hdec
  rwa [row_eq_of_mnemonic_eq hp hq (hname.symm.trans hqname.symm)]

/-- Settles O8: the encoder's inverse, on the word and on its bytes in memory order. -/
theorem encodeThenDecodeGivesTheInstructionBack : Obligations.EncodeThenDecodeGivesTheInstructionBack := by
  intro i hwf
  have hdec : decode (encode i) = .ok i := decode_encode hwf
  have hbytes : decodeBytes (wordBytes (encode i)) = .ok (i, []) := by
    rw [← List.append_nil (wordBytes _), decodeBytes_wordBytes, hdec]
  have hword : BitVec.ofNat 32 ((encode i).toNat % 2 ^ 32) = encode i := by
    rw [Nat.mod_eq_of_lt (encode i).isLt, BitVec.ofNat_toNat, BitVec.setWidth_eq]
  exact ⟨hdec, hbytes, by rw [decodeTableWord, if_pos le_rfl, hword, hbytes]⟩

/-- Settles O9: the decoder takes every bit of the word into an operand or a selector. -/
theorem decodedWordsReencodeToThemselves : Obligations.DecodedWordsReencodeToThemselves :=
  fun _ _ => encode_of_decode

/-- Settles O10: a row is the words that decode to its mnemonic, so two rows with a common word are one, and a word without a row
does not decode. -/
theorem decoderAgreesWithOpcodeTable : Obligations.DecoderAgreesWithOpcodeTable := by
  refine ⟨rfl, fun p hp => row_iff_decodes hp, fun p hp q hq w hwp hwq => ?disjoint, fun w => ⟨fun hnone => ?illegal, ?noRow⟩⟩
  case disjoint =>
    obtain ⟨i, hi, hip⟩ := decodes_of_row hp hwp
    obtain ⟨j, hj, hjq⟩ := decodes_of_row hq hwq
    cases hi.symm.trans hj
    exact row_eq_of_mnemonic_eq hp hq (hip.symm.trans hjq)
  case illegal =>
    cases hdec : decode w with
    | error e => exact faultsIllegal_of_decode_error hdec
    | ok i =>
      obtain ⟨p, hp, -, hmatch⟩ := row_of_decode hdec
      exact absurd hmatch (hnone p hp)
  case noRow =>
    intro hillegal p hp hmatch
    obtain ⟨i, hdec, -⟩ := decodes_of_row hp hmatch
    obtain ⟨e, he⟩ := (faultsIllegal_iff w).1 hillegal
    cases hdec.symm.trans he

/-- Settles O11: each word is its instruction's encoding. -/
theorem wordsWrittenOutDecode : Obligations.WordsWrittenOutDecode := by
  refine ⟨?_, ?_, ?_, ?_, ?_, ?_, ?_, ?_, ?_, ?_⟩ <;> exact decode_eq_ok_iff.2 (by decide)

end Sys2Proof.Machine
end

section
/-! SUPPORT and O31, O32, O36, O52. The causes of IllegalInstruction (60_exceptions.md R220) against the decoder: a word that does
not decode has a cause, opcode by opcode, and the encoding of an instruction has none; and the bit that decides the alignment of
a target (43_control_flow.md, Family rules). -/

namespace Sys2Proof.Machine

open Sys2Proof.Claims

/-! The selectors as numbers. -/

theorem opcodeNum_eq (w : InstrWord) : opcodeNum w = (opcodeOf w).toNat := (opcodeOf_eq_iff w _).1 rfl
theorem funct3Num_eq (w : InstrWord) : funct3Num w = (funct3Of w).toNat := (funct3Of_eq_iff w _).1 rfl
theorem funct7Num_eq (w : InstrWord) : funct7Num w = (funct7Of w).toNat := (funct7Of_eq_iff w _).1 rfl
theorem shtype6Num_eq (w : InstrWord) : shtype6Num w = (shtype6Of w).toNat := (shtype6Of_eq_iff w _).1 rfl

/-! A word with a cause does not decode. -/

/-- The selectors that the encoder places are no cause. -/
theorem not_illegalCause_encode (i : Instr) : ¬IllegalCause (encode i) := by
  simp only [IllegalCause, opcodeNum_eq, funct3Num_eq, funct7Num_eq, shtype6Num_eq]
  cases i <;> simp [encode]

theorem faultsIllegal_of_cause {w : InstrWord} (h : IllegalCause w) : FaultsIllegal w := by
  cases hdec : decode w with
  | error e => exact faultsIllegal_of_decode_error hdec
  | ok i => exact absurd ((encode_of_decode hdec).2 ▸ h) (not_illegalCause_encode i)

/-! A word that does not decode has a cause: what is left to the last arm of each decoder. -/

theorem funct3Num_lt (w : InstrWord) : funct3Num w < 8 := Nat.mod_lt _ (by decide)

theorem jalr_cause {w : InstrWord} {e : DecodeError} (h : decodeJalr w = .error e) : funct3Num w ≠ 0 := by
  unfold decodeJalr at h
  split_ifs at h with hf3
  exact mt (funct3Of_eq_iff w 0#3).2 hf3

theorem miscMem_cause {w : InstrWord} {e : DecodeError} (h : decodeMiscMem w = .error e) : funct3Num w ≠ 0 := by
  unfold decodeMiscMem at h
  split_ifs at h with hf3
  exact mt (funct3Of_eq_iff w 0#3).2 hf3

theorem branch_cause {w : InstrWord} {e : DecodeError} (h : decodeBranch w = .error e) : funct3Num w = 2 ∨ funct3Num w = 3 := by
  have hlt := funct3Num_lt w
  unfold decodeBranch at h
  split at h <;> cases h
  simp only [imp_false, funct3Of_eq_iff, BitVec.reduceToNat] at *
  omega

theorem load_cause {w : InstrWord} {e : DecodeError} (h : decodeLoad w = .error e) : funct3Num w = 7 := by
  have hlt := funct3Num_lt w
  unfold decodeLoad at h
  split at h <;> cases h
  simp only [imp_false, funct3Of_eq_iff, BitVec.reduceToNat] at *
  omega

theorem store_cause {w : InstrWord} {e : DecodeError} (h : decodeStore w = .error e) : 4 ≤ funct3Num w := by
  unfold decodeStore at h
  split at h <;> cases h
  simp only [imp_false, funct3Of_eq_iff, BitVec.reduceToNat] at *
  omega

theorem op_cause {w : InstrWord} {e : DecodeError} (h : decodeOp w = .error e) :
    ¬(funct7Num w = 0 ∨ funct7Num w = 0x20 ∧ (funct3Num w = 0 ∨ funct3Num w = 5)) := by
  have hlt := funct3Num_lt w
  unfold decodeOp at h
  split at h <;> cases h
  simp only [imp_false, funct3Of_eq_iff, funct7Of_eq_iff, BitVec.reduceToNat] at *
  omega

theorem op32_cause {w : InstrWord} {e : DecodeError} (h : decodeOp32 w = .error e) :
    ¬(funct7Num w = 0 ∧ funct3Num w ∈ [0, 1, 5] ∨ funct7Num w = 0x20 ∧ funct3Num w ∈ [0, 5]) := by
  unfold decodeOp32 at h
  split at h <;> cases h
  simp only [imp_false, funct3Of_eq_iff, funct7Of_eq_iff, BitVec.reduceToNat, List.mem_cons, List.not_mem_nil, or_false] at *
  omega

theorem opImm_cause {w : InstrWord} {e : DecodeError} (h : decodeOpImm w = .error e) :
    funct3Num w = 1 ∧ shtype6Num w ≠ 0 ∨ funct3Num w = 5 ∧ shtype6Num w ≠ 0 ∧ shtype6Num w ≠ 0x10 := by
  have hlt := funct3Num_lt w
  unfold decodeOpImm at h
  split at h
  case h_1 | h_2 | h_3 | h_4 | h_5 | h_6 => cases h
  case h_7 | h_8 =>
    split_ifs at h
    simp only [funct3Of_eq_iff, shtype6Of_eq_iff, BitVec.reduceToNat] at *
    omega
  case h_9 =>
    simp only [imp_false, funct3Of_eq_iff, BitVec.reduceToNat] at *
    omega

theorem opImm32_cause {w : InstrWord} {e : DecodeError} (h : decodeOpImm32 w = .error e) :
    funct3Num w ∉ [0, 1, 5] ∨ funct3Num w = 1 ∧ funct7Num w ≠ 0 ∨
      funct3Num w = 5 ∧ funct7Num w ≠ 0 ∧ funct7Num w ≠ 0x20 := by
  unfold decodeOpImm32 at h
  split at h
  case h_1 => cases h
  case h_2 | h_3 =>
    split_ifs at h
    simp only [funct3Of_eq_iff, funct7Of_eq_iff, BitVec.reduceToNat] at *
    omega
  case h_4 =>
    simp only [imp_false, funct3Of_eq_iff, BitVec.reduceToNat, List.mem_cons, List.not_mem_nil, or_false] at *
    omega

/-- R220's table is complete: by the major opcode, the cause of the opcode's own row, or the first row. -/
theorem illegalCause_of_decode_error {w : InstrWord} {e : DecodeError} (h : decode w = .error e) : IllegalCause w := by
  unfold decode at h
  split at h
  case h_1 | h_2 | h_3 => cases h
  case h_4 hop => simpa [IllegalCause, opcodeNum_eq, hop] using jalr_cause h
  case h_5 hop => simpa [IllegalCause, opcodeNum_eq, hop] using branch_cause h
  case h_6 hop => simpa [IllegalCause, opcodeNum_eq, hop] using load_cause h
  case h_7 hop => simpa [IllegalCause, opcodeNum_eq, hop] using store_cause h
  case h_8 hop => simpa [IllegalCause, opcodeNum_eq, hop] using opImm_cause h
  case h_9 hop => simpa [IllegalCause, opcodeNum_eq, hop] using op_cause h
  case h_10 hop => simpa [IllegalCause, opcodeNum_eq, hop] using opImm32_cause h
  case h_11 hop => simpa [IllegalCause, opcodeNum_eq, hop] using op32_cause h
  case h_12 hop => simpa [IllegalCause, opcodeNum_eq, hop] using miscMem_cause h
  case h_13 hop => simp [IllegalCause, opcodeNum_eq, hop]
  case h_14 =>
    simp only [imp_false, opcodeOf_eq_iff, BitVec.reduceToNat] at *
    exact .inl (by simp [*])

/-- Settles O31: the clauses are causes of R220's table. -/
theorem encodingsDecidedIllegalFault : Obligations.EncodingsDecidedIllegalFault := by
  refine ⟨fun w hop hf3 => ?miscMem, fun w hop => ?system, fun w hop hf3 => ?jalr, fun w hop hf3 => ?absentFunct3,
    fun w hop hf3 hf7 => ?leftShift, fun w hop hf3 h0 h20 => ?rightShift⟩ <;> apply faultsIllegal_of_cause
  case absentFunct3 =>
    have habsent : funct3Num w ∉ [0, 1, 5] := by
      simp only [List.mem_cons, List.not_mem_nil, or_false] at hf3 ⊢
      omega
    exact .inr (.inr (.inr (.inl ⟨hop, .inl habsent⟩)))
  all_goals simp [IllegalCause, *]

/-- Settles O32: a word that does not decode has a cause; a word that decodes is an encoding, and has none. -/
theorem illegalInstructionExactlyOnItsCauses : Obligations.IllegalInstructionExactlyOnItsCauses := by
  refine fun w s => ⟨fun hfault => ?_, fun hcause => (faultsIllegal_of_cause hcause s).1⟩
  obtain ⟨e, he⟩ := (execute_eq_illegal_iff w s).1 hfault
  exact illegalCause_of_decode_error he

/-! Which instructions can have a misaligned target, and the bit that decides it. -/

theorem isControl_of_jumpTarget {i : Instr} {s : State} {tgt : Word} (h : jumpTarget s i = some tgt) : isControl i = true := by
  cases i with
  | jal | jalr | beq | bne | blt | bge | bltu | bgeu => rfl
  | _ => cases h

/-- Settles O36: IllegalInstruction is the decoder's, and a misaligned target is that of a control transfer. -/
theorem illegalPreemptsMisaligned : Obligations.IllegalPreemptsMisaligned := by
  refine ⟨fun w s u => ?wordAlone, fun w s hfault => ?control, fun w s hop hf3 => ?jalr, fun w s hop hf3 => ?branch⟩
  case wordAlone => rw [execute_eq_illegal_iff, execute_eq_illegal_iff]
  case control =>
    obtain ⟨i, hdec, hi⟩ := (execute_eq_misaligned_iff w s).1 hfault
    obtain ⟨tgt, htgt, -⟩ := (exec_eq_misaligned_iff i s).1 hi
    exact ⟨i, hdec, isControl_of_jumpTarget htgt⟩
  case jalr =>
    obtain ⟨-, -, hjalr, -⟩ := encodingsDecidedIllegalFault
    exact (hjalr w hop hf3 s).1
  case branch => exact (branch_faultsIllegal hop hf3 s).1

/-- A taken branch goes to the relative target of its word's offset. -/
theorem jumpTarget_of_decodeBranch {w : InstrWord} {i : Instr} {s : State} {tgt : Word} (h : decodeBranch w = .ok i)
    (htgt : jumpTarget s i = some tgt) : tgt = relTarget s (gatherB w) := by
  unfold decodeBranch at h
  split at h <;> cases h <;> exact (Option.some.inj (Option.ite_none_right_eq_some.1 htgt).2).symm

theorem getLsbD_one_gatherJ (w : InstrWord) : (gatherJ w).getLsbD 1 = w.getLsbD 21 := by
  simp only [gatherJ, BitVec.getLsbD_append, BitVec.getLsbD_extractLsb']
  simp

theorem getLsbD_one_gatherB (w : InstrWord) : (gatherB w).getLsbD 1 = w.getLsbD 8 := by
  simp only [gatherB, BitVec.getLsbD_append, BitVec.getLsbD_extractLsb']
  simp

/-- With bit 0 cleared, bit 1 is the alignment (R162). -/
theorem evenSum_misaligned_iff (s : State) (rs1 : RegIdx) (imm : BitVec 12) :
    (evenSum s rs1 imm).toNat % 4 ≠ 0 ↔ (BitVec.ofInt 64 ((s.x rs1).toInt + imm.toInt)).getLsbD 1 = true := by
  rw [evenSum, BitVec.toNat_ofNat, BitVec.getLsbD, Nat.testBit_eq_decide_div_mod_eq, decide_eq_true_eq]
  omega

/-- Settles O52: the offsets' bit 1 is bit 21 and bit 8 of the word; a JALR target's is the sum's. -/
theorem bitOneDecidesTheAlignment : Obligations.BitOneDecidesTheAlignment := by
  refine fun w s hpc => ⟨fun hop => ?jal, fun i hdec hop => ?branch, fun hop hf3 => ?jalr⟩
  case jal =>
    obtain ⟨-, hbit, -⟩ := jalLinksAndJumps
    have hdec : decode w = .ok (.jal (rdOf w) (gatherJ w)) := by simp only [decode, (opcodeOf_eq_iff w 0x6F#7).2 hop]
    rw [execute_ok s hdec, hbit _ _ _ (gatherJ_even w) hpc, getLsbD_one_gatherJ]
  case branch =>
    have hbranch : decodeBranch w = .ok i := (decode_eq_decodeBranch ((opcodeOf_eq_iff w 0x63#7).2 hop)).symm.trans hdec
    rw [execute_ok s hdec, exec_eq_misaligned_iff, ← getLsbD_one_gatherB,
      ← relTarget_misaligned_iff (by decide) (gatherB_even w) hpc]
    cases htgt : jumpTarget s i with
    | none => simp
    | some tgt => simp [jumpTarget_of_decodeBranch hbranch htgt]
  case jalr =>
    have hdec : decode w = .ok (.jalr (rdOf w) (rs1Of w) (gatherI w)) := by
      simp only [decode, (opcodeOf_eq_iff w 0x67#7).2 hop, decodeJalr, (funct3Of_eq_iff w 0#3).2 hf3, if_true]
    rw [execute_ok s hdec, exec_eq_misaligned_iff, immI, toInt_sext _ (by decide), ← evenSum_misaligned_iff]
    simp only [jumpTarget, Option.some.injEq, exists_eq_left']

end Sys2Proof.Machine
end

section
/-! SUPPORT and O26, O27, O28, O46. The reference bus (20_memory.md R45, R57) byte by byte: what is read of a part of what was
written, a store's frame, and that canonical memories are determined by their bytes. -/

namespace Sys2Proof.Machine

open Sys2Proof.Claims

/-! Byte by byte. -/

/-- A value of whole bytes is determined by its bytes. -/
theorem eq_of_bytes {n : Nat} {v w : BitVec (8 * n)} (h : ∀ k < n, v.extractLsb' (8 * k) 8 = w.extractLsb' (8 * k) 8) : v = w := by
  refine BitVec.eq_of_getLsbD_eq fun j hj => ?_
  have hbyte : j % 8 < 8 := Nat.mod_lt _ (by decide)
  have hbit := congrArg (·.getLsbD (j % 8)) (h (j / 8) (by omega))
  simpa only [getLsbD_field _ _ hbyte, Nat.div_add_mod] using hbit

theorem memRead_eq_of_bytes {m : Memory} {a : Addr} {n : Nat} {v : BitVec (8 * n)}
    (h : ∀ k < n, byteAt m (a + BitVec.ofNat 64 k) = v.extractLsb' (8 * k) 8) : memRead m a n = v :=
  eq_of_bytes fun k hk => (memRead_byte m a n k hk).trans (h k hk)

/-- `MemRead` of a part of what `MemWrite` stored is that part of the value. -/
theorem memRead_memWrite_part (m : Memory) (a : Addr) {n : Nat} (v : BitVec (8 * n)) (hn : n ≤ 2 ^ 64) {i len : Nat}
    (h : i + len ≤ n) : memRead (memWrite m a n v) (a + BitVec.ofNat 64 i) len = v.extractLsb' (8 * i) (8 * len) :=
  memRead_eq_of_bytes fun k hk => by
    rw [BitVec.add_assoc, ← BitVec.ofNat_add, memWrite_byte m a n v hn (i + k) (by omega)]
    refine BitVec.eq_of_getLsbD_eq fun j hj => ?_
    rw [getLsbD_field _ _ hj, getLsbD_field _ _ hj, getLsbD_field _ _ (by omega), Nat.mul_add, Nat.add_assoc]

theorem byte_toNat {n : Nat} (v : BitVec n) (k : Nat) : (v.extractLsb' (8 * k) 8).toNat = v.toNat / 256 ^ k % 256 := by
  rw [toNat_field, pow_mul]
  rfl

/-! Stores. -/

/-- A store leaves the register's bytes at its address, lowest first, and everything else as it was. -/
theorem storeFrom_frame (w : Width) {i : Instr} {s : State} {rs1 rs2 : RegIdx} {imm : BitVec 12} {a : Addr}
    (ha : effectiveAddress s rs1 imm = a) (h : exec i s = storeFrom w rs1 rs2 imm s) :
    ∃ t, exec i s = .next t ∧
      (∀ k < widthBytes w, byteAt t.mem (a + BitVec.ofNat 64 k) = (s.x rs2).extractLsb' (8 * k) 8) ∧
      (∀ b, (∀ k < widthBytes w, b ≠ a + BitVec.ofNat 64 k) → byteAt t.mem b = byteAt s.mem b) ∧
      (∀ r, t.x r = s.x r) ∧ t.pc = s.pc + 4 := by
  obtain ⟨t, ht, hx, hpc, hmem⟩ := completesStoring_of_storeFrom w h rfl
  rw [← effectiveAddress_eq_address, ha] at hmem
  refine ⟨t, ht, fun k hk => ?stored, fun b hb => ?others, hx, hpc⟩
  case stored =>
    rw [hmem, memWrite_byte _ _ _ _ (by cases w <;> decide) k hk]
    refine BitVec.eq_of_getLsbD_eq fun j hj => ?_
    rw [getLsbD_field _ _ hj, getLsbD_field _ _ hj, getLsbD_field _ _ (by omega), Nat.zero_add]
  case others => rw [hmem, memWrite_byte_other _ _ _ _ b hb]

/-- Settles O26: each of the four is the store of its width. -/
theorem storesChangeOnlyTheirBytes : Obligations.StoresChangeOnlyTheirBytes := by
  intro rs1 rs2 imm s a ha
  simp only [List.forall_mem_cons]
  exact ⟨storeFrom_frame .byte ha rfl, storeFrom_frame .half ha rfl, storeFrom_frame .word ha rfl,
    storeFrom_frame .double ha rfl, List.forall_mem_nil _⟩

/-- Settles O27: byte `k` of a value is its quotient by 256^k; the example reads parts of a word written. -/
theorem busIsLittleEndian : Obligations.BusIsLittleEndian := by
  refine ⟨fun m a n _ k hk => ?read, fun m a n v hn => ⟨fun k hk => ?written, memWrite_byte_other m a n v⟩, fun m a => ?mixedWidth⟩
  case read => rw [← memRead_byte m a n k hk, byte_toNat]
  case written => rw [memWrite_byte m a n v (by omega) k hk, byte_toNat]
  case mixedWidth =>
    have part := fun i len (h : i + len ≤ 4) => memRead_memWrite_part m a (n := 4) 0x11223344#32 (by decide) h
    refine ⟨?_, part 1 1 (by decide), part 2 2 (by decide)⟩
    simpa using part 0 1 (by decide)

/-- Settles O28: the load reads the eight bytes that the store wrote. -/
theorem storeThenLoadReturnsTheValue : Obligations.StoreThenLoadReturnsTheValue := by
  intro rs1 rs2 rd base imm off s t hrd hstore haddr
  obtain ⟨hstores, -⟩ := storesIssueTheTruncatedData
  obtain ⟨hloads, -⟩ := loadsWriteTheConvertedAnswer
  obtain ⟨-, -, -, t', ht', -, -, hmem⟩ := hstores rs1 rs2 imm s
  obtain ⟨-, -, -, ⟨u, hu, hx, -⟩, -⟩ := hloads rd base off t
  cases hstore.symm.trans ht'
  rw [effectiveAddress_eq_address, effectiveAddress_eq_address] at haddr
  rw [if_neg hrd, hmem, haddr] at hx
  exact ⟨u, hu, hx.trans (memRead_memWrite s.mem _ 8 _ (by decide))⟩

/-! The canonical form. -/

theorem Memory.wfFrom_cons {lo k : Nat} {v : Byte} {m : Memory} : Memory.wfFrom lo ((k, v) :: m) = true ↔
    lo ≤ k ∧ k < 2 ^ 64 ∧ v ≠ Config.unlistedByte ∧ Memory.wfFrom (k + 1) m = true := by
  simp only [Memory.wfFrom, Bool.and_eq_true, decide_eq_true_eq, and_assoc]

theorem Memory.get_cons_self (k : Nat) (v : Byte) (m : Memory) : Memory.get ((k, v) :: m) k = v := if_pos rfl

theorem Memory.get_cons_other {k a : Nat} (v : Byte) (m : Memory) (h : k ≠ a) : Memory.get ((k, v) :: m) a = Memory.get m a :=
  if_neg h

/-- A canonical memory that lists `k` does not read at `k` like one whose entries all lie above it. -/
theorem Memory.get_head_ne {lo k : Nat} {v : Byte} {m n : Memory} (hm : Memory.wfFrom lo ((k, v) :: m) = true)
    (hn : Memory.wfFrom (k + 1) n = true) : Memory.get ((k, v) :: m) k ≠ Memory.get n k := by
  obtain ⟨-, -, hv, -⟩ := Memory.wfFrom_cons.1 hm
  rwa [Memory.get_cons_self, Memory.get_below hn k.lt_succ_self]

theorem Memory.eq_of_get_eq {m n : Memory} {lo : Nat} (hm : Memory.wfFrom lo m = true) (hn : Memory.wfFrom lo n = true)
    (h : ∀ a < 2 ^ 64, Memory.get m a = Memory.get n a) : m = n := by
  induction m generalizing n lo with
  | nil =>
    cases n with
    | nil => rfl
    | cons d n =>
      obtain ⟨-, hl, -, -⟩ := Memory.wfFrom_cons.1 hn
      exact absurd (h d.1 hl).symm (Memory.get_head_ne hn rfl)
  | cons c m ih =>
    obtain ⟨k, v⟩ := c
    obtain ⟨hlo, hk, hv, hm'⟩ := Memory.wfFrom_cons.1 hm
    cases n with
    | nil => exact absurd (h k hk) (Memory.get_head_ne hm rfl)
    | cons d n =>
      obtain ⟨l, w⟩ := d
      obtain ⟨hlo', hl, hw, hn'⟩ := Memory.wfFrom_cons.1 hn
      obtain hlt | rfl | hgt := Nat.lt_trichotomy k l
      · exact absurd (h k hk) (Memory.get_head_ne hm (Memory.wfFrom_cons.2 ⟨hlt, hl, hw, hn'⟩))
      · have hhead := h k hk
        rw [Memory.get_cons_self, Memory.get_cons_self] at hhead
        refine congrArg₂ _ (congrArg _ hhead) (ih hm' hn' fun a ha => ?_)
        by_cases hka : k = a
        · subst hka
          rw [Memory.get_below hm' k.lt_succ_self, Memory.get_below hn' k.lt_succ_self]
        · simpa only [Memory.get_cons_other _ _ hka] using h a ha
      · exact absurd (h l hl).symm (Memory.get_head_ne hn (Memory.wfFrom_cons.2 ⟨hgt, hk, hv, hm'⟩))

/-- Settles O46: every address below 2^64 is the number of an address. -/
theorem canonicalMemoriesThatReadAlikeAreEqual : Obligations.CanonicalMemoriesThatReadAlikeAreEqual := by
  refine fun m n hm hn h => Memory.eq_of_get_eq hm hn fun a ha => ?_
  simpa only [byteAt, BitVec.toNat_ofNat, Nat.mod_eq_of_lt ha] using h (BitVec.ofNat 64 a)

end Sys2Proof.Machine
end

section
/-! SUPPORT and O39, O40, O41, O45. What a step writes and what it reads (10_state.md, section 1; 20_memory.md R44), each said once
for every instruction: `FrameRule` of one step, `SameEffect` of two steps from states that agree on what the instruction reads. -/

namespace Sys2Proof.Machine

open Sys2Proof.Claims Sys2Proof.Safety

/-! What a step writes. -/

/-- The memory after a step with this bus operation (R44). -/
def memoryAfter (m : Memory) : Option BusRequest → Memory
  | some r => busPerform m r
  | none => m

/-- A step from `s` that completes writes at most the register `d`, and changes memory by the bus operation `q` alone. -/
inductive FrameRule (s : State) (d : Option RegIdx) (q : Option BusRequest) : Result → Prop
  | next {t : State} (hx : ∀ r, d ≠ some r → t.x r = s.x r) (hmem : t.mem = memoryAfter s.mem q) : FrameRule s d q (.next t)
  | fault (f : Fault) : FrameRule s d q (.fault f)

theorem setX_setPc_frameRule (rd : RegIdx) (v p : Word) (s : State) {q : Option BusRequest} (hq : memoryAfter s.mem q = s.mem) :
    FrameRule s (some rd) q (.next ((s.setX rd v).setPc p)) :=
  .next (fun _ hr => State.x_setX_other s v fun h => hr (congrArg some h.symm)) ((State.setX_mem s rd v).trans hq.symm)

theorem setPc_frameRule (p : Word) (s : State) : FrameRule s none none (.next (s.setPc p)) := .next (fun _ _ => rfl) rfl

theorem writeBack_frameRule (rd : RegIdx) (v : Word) (s : State) : FrameRule s (some rd) none (writeBack rd v s) := by
  rw [writeBack_eq]
  exact setX_setPc_frameRule _ _ _ _ rfl

theorem writeBackWord_frameRule (rd : RegIdx) (r32 : BitVec 32) (s : State) :
    FrameRule s (some rd) none (writeBackWord rd r32 s) :=
  writeBack_frameRule ..

/-- A load leaves the reference bus as it was. -/
theorem loadInto_frameRule (w : Width) (e : LoadExt) (rd rs1 : RegIdx) (imm : BitVec 12) (s : State) :
    FrameRule s (some rd) (some (loadRequest w rs1 imm s)) (loadInto w e rd rs1 imm s) := by
  rw [loadInto_eq]
  exact setX_setPc_frameRule _ _ _ _ rfl

theorem storeFrom_frameRule (w : Width) (rs1 rs2 : RegIdx) (imm : BitVec 12) (s : State) :
    FrameRule s none (some (storeRequest w rs1 rs2 imm s)) (storeFrom w rs1 rs2 imm s) := by
  rw [storeFrom_eq]
  exact .next (fun _ _ => rfl) rfl

theorem jumpAndLink_frameRule (rd : RegIdx) (t : Word) (s : State) : FrameRule s (some rd) none (jumpAndLink rd t s) := by
  rw [jumpAndLink_eq]
  split
  · exact .fault _
  · exact setX_setPc_frameRule _ _ _ _ rfl

theorem branchIf_frameRule (c : Bool) (off : BitVec 13) (s : State) : FrameRule s none none (branchIf c off s) := by
  rw [branchIf_eq]
  split_ifs
  · exact setPc_frameRule ..
  · exact .fault _
  · exact setPc_frameRule ..

/-- Every instruction keeps the frame, with its own destination and bus operation. -/
theorem exec_frameRule (i : Instr) (s : State) : FrameRule s (destination i) (busRequest i s) (exec i s) := by
  cases i with
  | jal | jalr => exact jumpAndLink_frameRule ..
  | beq | bne | blt | bge | bltu | bgeu => exact branchIf_frameRule ..
  | lb | lh | lw | ld | lbu | lhu | lwu => exact loadInto_frameRule ..
  | sb | sh | sw | sd => exact storeFrom_frameRule ..
  | fence => exact setPc_frameRule ..
  | addiw | slliw | srliw | sraiw | addw | subw | sllw | srlw | sraw => exact writeBackWord_frameRule ..
  | lui | auipc | addi | slti | sltiu | xori | ori | andi | slli | srli | srai
  | add | sub | sll | slt | sltu | xor | srl | sra | or | and => exact writeBack_frameRule ..

theorem exec_x_other {i : Instr} {s t : State} (h : exec i s = .next t) {r : RegIdx} (hr : destination i ≠ some r) :
    t.x r = s.x r := by
  have hrule := h ▸ exec_frameRule i s
  cases hrule with
  | next hx _ => exact hx r hr

theorem exec_mem {i : Instr} {s t : State} (h : exec i s = .next t) : t.mem = memoryAfter s.mem (busRequest i s) := by
  have hrule := h ▸ exec_frameRule i s
  cases hrule with
  | next _ hmem => exact hmem

/-! What a step reads. -/

/-- Two outcomes with one pc and one value of the register `d`, or one fault. -/
inductive SameEffect (d : Option RegIdx) : Result → Result → Prop
  | next {s u : State} (hpc : s.pc = u.pc) (hx : ∀ r, d = some r → s.x r = u.x r) : SameEffect d (.next s) (.next u)
  | fault (f : Fault) : SameEffect d (.fault f) (.fault f)

theorem setX_setPc_sameEffect {s u : State} (rd : RegIdx) {v v' p p' : Word} (hv : v = v') (hp : p = p') :
    SameEffect (some rd) (.next ((s.setX rd v).setPc p)) (.next ((u.setX rd v').setPc p')) := by
  refine .next hp fun r hr => ?_
  cases hr
  rw [State.x_setPc, State.x_setPc, State.x_setX_self, State.x_setX_self, hv]

section
variable {s u : State} (hpc : s.pc = u.pc)
include hpc

theorem writeBack_sameEffect (rd : RegIdx) {v v' : Word} (hv : v = v') :
    SameEffect (some rd) (writeBack rd v s) (writeBack rd v' u) := by
  rw [writeBack_eq, writeBack_eq]
  exact setX_setPc_sameEffect rd hv (congrArg (· + 4) hpc)

theorem jumpAndLink_sameEffect (rd : RegIdx) {t t' : Word} (ht : t = t') :
    SameEffect (some rd) (jumpAndLink rd t s) (jumpAndLink rd t' u) := by
  subst ht
  rw [jumpAndLink_eq, jumpAndLink_eq]
  split
  · exact .fault _
  · exact setX_setPc_sameEffect rd (congrArg (· + 4) hpc) rfl

theorem branchIf_sameEffect {c c' : Bool} (off : BitVec 13) (hc : c = c') :
    SameEffect none (branchIf c off s) (branchIf c' off u) := by
  subst hc
  rw [branchIf_eq, branchIf_eq, relativeTarget, relativeTarget, ← hpc]
  split_ifs
  · exact .next rfl nofun
  · exact .fault _
  · exact .next rfl nofun

theorem storeFrom_sameEffect (w : Width) (rs1 rs2 : RegIdx) (imm : BitVec 12) :
    SameEffect none (storeFrom w rs1 rs2 imm s) (storeFrom w rs1 rs2 imm u) := by
  rw [storeFrom_eq, storeFrom_eq]
  exact .next (congrArg (· + 4) hpc) nofun

end

/-- Every instruction's effect is that of the pc, the registers of its ports and the answer to its bus operation. -/
theorem exec_sameEffect {i : Instr} {s u : State} (hpc : s.pc = u.pc) (hsrc : ∀ r ∈ sources i, s.x r = u.x r)
    (hanswer : ∀ r, busRequest i s = some r → busAnswer s.mem r = busAnswer u.mem r) :
    SameEffect (destination i) (exec i s) (exec i u) := by
  cases i with
  | lui rd imm => exact writeBack_sameEffect hpc rd rfl
  | auipc rd imm => exact writeBack_sameEffect hpc rd (by rw [hpc])
  | jal rd off => exact jumpAndLink_sameEffect hpc rd (congrArg (· + sext off) hpc)
  | fence => exact .next (congrArg (· + 4) hpc) nofun
  | jalr rd rs1 imm =>
    have h1 : s.x rs1 = u.x rs1 := hsrc rs1 (List.mem_singleton_self rs1)
    exact jumpAndLink_sameEffect hpc rd (by rw [jalrTarget, jalrTarget, h1])
  | lb rd rs1 imm | lh rd rs1 imm | lw rd rs1 imm | ld rd rs1 imm | lbu rd rs1 imm | lhu rd rs1 imm | lwu rd rs1 imm =>
    have h1 : s.x rs1 = u.x rs1 := hsrc rs1 (List.mem_singleton_self rs1)
    refine writeBack_sameEffect hpc rd (congrArg _ ((hanswer _ rfl).trans ?_))
    rw [loadRequest, loadRequest, effectiveAddress, effectiveAddress, h1]
  | sb | sh | sw | sd => exact storeFrom_sameEffect hpc ..
  | addi rd rs1 _ | slti rd rs1 _ | sltiu rd rs1 _ | xori rd rs1 _ | ori rd rs1 _ | andi rd rs1 _
  | slli rd rs1 _ | srli rd rs1 _ | srai rd rs1 _ | addiw rd rs1 _ | slliw rd rs1 _ | srliw rd rs1 _ | sraiw rd rs1 _ =>
    have h1 : s.x rs1 = u.x rs1 := hsrc rs1 (List.mem_singleton_self rs1)
    exact writeBack_sameEffect hpc rd (by rw [h1])
  | add rd rs1 rs2 | sub rd rs1 rs2 | sll rd rs1 rs2 | slt rd rs1 rs2 | sltu rd rs1 rs2 | xor rd rs1 rs2 | srl rd rs1 rs2
  | sra rd rs1 rs2 | or rd rs1 rs2 | and rd rs1 rs2 | addw rd rs1 rs2 | subw rd rs1 rs2 | sllw rd rs1 rs2 | srlw rd rs1 rs2
  | sraw rd rs1 rs2 =>
    have h1 : s.x rs1 = u.x rs1 := hsrc rs1 List.mem_cons_self
    have h2 : s.x rs2 = u.x rs2 := hsrc rs2 (List.mem_cons_of_mem rs1 List.mem_cons_self)
    exact writeBack_sameEffect hpc rd (by rw [h1, h2])
  | beq rs1 rs2 off | bne rs1 rs2 off | blt rs1 rs2 off | bge rs1 rs2 off | bltu rs1 rs2 off | bgeu rs1 rs2 off =>
    have h1 : s.x rs1 = u.x rs1 := hsrc rs1 List.mem_cons_self
    have h2 : s.x rs2 = u.x rs2 := hsrc rs2 (List.mem_cons_of_mem rs1 List.mem_cons_self)
    exact branchIf_sameEffect hpc off (by rw [h1, h2])

/-- So does the bus operation. -/
theorem busRequest_congr {i : Instr} {s u : State} (hsrc : ∀ r ∈ sources i, s.x r = u.x r) : busRequest i s = busRequest i u := by
  cases i with
  | lb rd rs1 imm | lh rd rs1 imm | lw rd rs1 imm | ld rd rs1 imm | lbu rd rs1 imm | lhu rd rs1 imm | lwu rd rs1 imm =>
    have h1 : s.x rs1 = u.x rs1 := hsrc rs1 (List.mem_singleton_self rs1)
    simp only [busRequest, loadRequest, effectiveAddress, h1]
  | sb rs1 rs2 imm | sh rs1 rs2 imm | sw rs1 rs2 imm | sd rs1 rs2 imm =>
    have h1 : s.x rs1 = u.x rs1 := hsrc rs1 List.mem_cons_self
    have h2 : s.x rs2 = u.x rs2 := hsrc rs2 (List.mem_cons_of_mem rs1 List.mem_cons_self)
    simp only [busRequest, storeRequest, effectiveAddress, h1, h2]
  | _ => rfl

/-! The bus operation in integers (R44's table). -/

theorem storeData_eq_ofNat (w : Width) (v : Word) : storeData w v = BitVec.ofNat 64 (v.toNat % 2 ^ (8 * widthBytes w)) := by
  rw [storeData, zext, ← BitVec.ofNat_toNat, toNat_field, pow_zero, Nat.div_one]

theorem storeData_double (v : Word) : storeData .double v = v := by
  rw [storeData_eq_ofNat, widthBytes, Nat.mod_eq_of_lt v.isLt, BitVec.ofNat_toNat, BitVec.setWidth_eq]

theorem busRequest_eq_busOperation (i : Instr) (s : State) : busRequest i s = busOperation s i := by
  cases i with
  | lb | lh | lw | ld | lbu | lhu | lwu => simp only [busRequest, busOperation, loadRequest, effectiveAddress_eq_address]
  | sb | sh | sw =>
    simp only [busRequest, busOperation, storeRequest, effectiveAddress_eq_address, storeData_eq_ofNat]
    rfl
  | sd => simp only [busRequest, busOperation, storeRequest, effectiveAddress_eq_address, storeData_double]
  | _ => rfl

/-- Settles O39: the frame names the one register written; the effect and the bus operation are those of the registers read. -/
theorem registerPortsOfEveryInstruction : Obligations.RegisterPortsOfEveryInstruction := by
  refine ⟨fun i s t h r hr => exec_x_other h hr, fun i s f h r => by rw [h, stateAfter], fun i s u hpc hmem hsrc => ?_⟩
  have heffect := exec_sameEffect hpc hsrc fun _ _ => by rw [hmem]
  generalize hs : exec i s = a, hu : exec i u = b at heffect
  cases heffect with
  | next hpc' hx =>
    refine .inl ⟨_, _, rfl, rfl, hpc', ?_, hx⟩
    rw [exec_mem hs, exec_mem hu, hmem, busRequest_congr hsrc]
  | fault f => exact .inr ⟨f, rfl, rfl⟩

/-- Settles O40: the request is R44's, the frame's memory is the request's, and what issues a request completes. -/
theorem busTrafficIsOneOperationPerAccess : Obligations.BusTrafficIsOneOperationPerAccess := by
  refine ⟨busRequest_eq_busOperation, fun i s t h => ?_, fun i s r h => exec_commits_of_busRequest h⟩
  rw [exec_mem h]
  cases busRequest i s <;> rfl

/-- Two instructions' outcomes from blocks in one state whose buses answer alike (70_reset_and_hazards.md section 2). -/
theorem exec_sameBlockOutcome {i : Instr} {s u : State} (hpc : s.pc = u.pc) (hx : ∀ r, s.x r = u.x r)
    (hanswer : ∀ r, busRequest i s = some r → busAnswer s.mem r = busAnswer u.mem r) :
    SameBlockOutcome (exec i s) (exec i u) := by
  have heffect := exec_sameEffect hpc (fun r _ => hx r) hanswer
  generalize hs : exec i s = a, hu : exec i u = b at heffect
  cases heffect with
  | next hpc' hdest =>
    refine ⟨hpc', fun r => ?_⟩
    by_cases hr : destination i = some r
    · exact hdest r hr
    · rw [exec_x_other hs hr, exec_x_other hu hr, hx r]
  | fault f => exact rfl

/-- Settles O41: a word that is no instruction has one outcome, an instruction its effect and its frame. -/
theorem blockDependsOnlyOnTheBusAnswer : Obligations.BlockDependsOnlyOnTheBusAnswer := by
  intro w s u hpc hx hanswer
  cases hdec : decode w with
  | error e =>
    rw [(faultsIllegal_of_decode_error hdec s).1, (faultsIllegal_of_decode_error hdec u).1]
    rfl
  | ok i =>
    rw [execute_ok s hdec, execute_ok u hdec]
    exact exec_sameBlockOutcome hpc hx fun r hr => hanswer i r hdec hr

theorem memoryAfter_wf {m : Memory} (h : Memory.wf m = true) (q : Option BusRequest) : Memory.wf (memoryAfter m q) = true := by
  cases q with
  | none => exact h
  | some r => exact busPerform_wf m r h

theorem step_keeps_memCanonical {s t : State} (hs : memCanonical s) (h : step s = .next t) : memCanonical t := by
  obtain ⟨i, -, hi⟩ := exec_of_execute_next h
  rw [memCanonical, exec_mem hi]
  exact memoryAfter_wf hs _

/-- Settles O45: memory changes by a bus operation or by placing a word, and both keep the form. -/
theorem memoryStaysCanonical : Obligations.MemoryStaysCanonical :=
  ⟨fun _ _ => step_keeps_memCanonical, fun _ _ hs => memWrite_wf _ _ 4 _ hs⟩

end Sys2Proof.Machine
end

section
/-! SUPPORT and O1, O2, O42, O43, O44. The first state (R37, R250) and the host's fetch (R252): the word fetched is the one whose
bytes stand at the pc, be they placed by the loader or stored by the program. -/

namespace Sys2Proof.Machine

open Sys2Proof.Claims Sys2Proof.Safety

/-! Reset. -/

theorem State.initial_x_succ (initX : Vector Word 31) (initPc : Word) (mem : Memory) (i : Fin 31) :
    (State.initial initX initPc mem).x i.succ = initX[i] := by
  simp [State.x, State.initial]

theorem State.reset_x (r : RegIdx) : State.reset.x r = 0 := by
  cases r using Fin.cases with
  | zero => rfl
  | succ i => rw [State.reset, State.initial_x_succ]; simp [Config.initX]

theorem State.initial_good {initX : Vector Word 31} {initPc : Word} {mem : Memory} (hpc : initPc.toNat % 4 = 0)
    (hmem : Memory.wf mem = true) : GoodState (State.initial initX initPc mem) :=
  ⟨(aligned_iff initPc).2 hpc, hmem⟩

/-- Settles O1: the accessors of the first state give back what the loader gave. -/
theorem firstStateIsTheLoaders : Obligations.FirstStateIsTheLoaders :=
  ⟨fun initX initPc mem => ⟨State.x_zero _, State.initial_x_succ initX initPc mem, rfl, fun _ => rfl, State.initial_good⟩,
    State.reset_x, rfl, byteAt_nil⟩

/-- Settles O2: reset is a first state whose parameters keep the premises. -/
theorem resetMeetsTheInvariant : Obligations.ResetMeetsTheInvariant :=
  ⟨State.initial_good (by decide) rfl, by decide, byteAt_nil⟩

/-! The word fetched. -/

theorem fetchWord_eq_of_bytes {s : State} {w : InstrWord}
    (h : ∀ k < 4, byteAt s.mem (s.pc + BitVec.ofNat 64 k) = w.extractLsb' (8 * k) 8) : fetchWord s = w :=
  memRead_eq_of_bytes (n := 4) h

theorem fetchWord_eq_wordAtPc (s : State) : fetchWord s = wordAtPc s := by
  have h2 : s.pc + 1 + 1 = s.pc + 2 := BitVec.add_assoc ..
  have h3 : s.pc + 2 + 1 = s.pc + 3 := BitVec.add_assoc ..
  have htop : (0 : BitVec (8 * 0)) ++ byteAt s.mem (s.pc + 3) = byteAt s.mem (s.pc + 3) := BitVec.zero_width_append _ _
  rw [fetchWord, memRead, memRead, memRead, memRead, memRead, h2, h3, htop, wordAtPc]

theorem step_of_fetch {s : State} {w : InstrWord} (h : fetchWord s = w) : step s = execute w s := by rw [step, h]

/-- Settles O42: the step executes the word at the pc, and the word is what it decodes to. -/
theorem stepRunsTheDecodedInstruction : Obligations.StepRunsTheDecodedInstruction := by
  refine ⟨fun s i hdec => ?decoded, fun s i hwf hbytes => ?encoded, fun s e hdec => ?illegal⟩
  case decoded => rw [step_of_fetch (fetchWord_eq_wordAtPc s), execute_ok s hdec]
  case encoded => rw [step_of_fetch (fetchWord_eq_of_bytes hbytes), execute_ok s (decode_encode hwf)]
  case illegal => rw [step_of_fetch (fetchWord_eq_wordAtPc s), (faultsIllegal_of_decode_error hdec s).1]

/-! A word written at the pc. -/

theorem fetchWord_of_memWrite {s : State} {m : Memory} {w : InstrWord} (h : s.mem = memWrite m s.pc 4 w) : fetchWord s = w := by
  rw [fetchWord, h]
  exact memRead_memWrite m s.pc 4 w (by decide)

theorem State.withFetchWord_eq (s : State) (w : InstrWord) :
    s.withFetchWord 32 w.toNat = s.setMem (memWrite s.mem s.pc 4 w) := by
  rw [State.withFetchWord, Nat.mod_eq_of_lt w.isLt, BitVec.ofNat_toNat, BitVec.setWidth_eq]

/-- Settles O43: the placed word is written at the pc, and nothing else is. -/
theorem placedWordIsTheNextExecuted : Obligations.PlacedWordIsTheNextExecuted := by
  intro s w
  rw [State.withFetchWord_eq]
  exact ⟨step_of_fetch (fetchWord_of_memWrite rfl), fun _ => rfl, rfl, memWrite_byte_other s.mem s.pc 4 w⟩

/-- Settles O44: the store writes its word where the pc then stands. -/
theorem storeIsSeenByTheNextFetch : Obligations.StoreIsSeenByTheNextFetch := by
  intro rs1 rs2 imm s haddr
  obtain ⟨hstores, -⟩ := storesIssueTheTruncatedData
  obtain ⟨-, -, ⟨t, ht, -, hpc, hmem⟩, -⟩ := hstores rs1 rs2 imm s
  rw [← effectiveAddress_eq_address, haddr, ← hpc] at hmem
  exact ⟨t, ht, step_of_fetch (fetchWord_of_memWrite hmem)⟩

end Sys2Proof.Machine
end

section
/-! SUPPORT and O48, O49, O50, O51. The block on an open bus (20_memory.md R41, R44, R57; log entry 19): its outcome is that of `exec`
on any memory that answers as the bus does, its faults are those of `exec` on any memory, and it is stuck only on a refused access. -/

namespace Sys2Proof.Machine

open Sys2Proof.Claims

/-! One instruction on a bus. -/

/-- Memories that answer alike give one outcome of the block. -/
theorem onBus_exec_congr (B : Bus) (c : B.Content) {i : Instr} {b : Block} {m n : Memory}
    (hanswer : ∀ r, busRequest i (b.withMemory m) = some r → busAnswer m r = busAnswer n r) :
    onBus B c (exec i (b.withMemory m)) = onBus B c (exec i (b.withMemory n)) := by
  have hsame : SameBlockOutcome (exec i (b.withMemory m)) (exec i (b.withMemory n)) :=
    exec_sameBlockOutcome rfl (fun _ => rfl) hanswer
  obtain ⟨t, ht⟩ | ht := (exec_pcRule i (b.withMemory m)).commits_or_misaligned <;>
  obtain ⟨u, hu⟩ | hu := (exec_pcRule i (b.withMemory n)).commits_or_misaligned <;>
  rw [ht, hu] at hsame ⊢
  · obtain ⟨hpc, hx⟩ := hsame
    have hblock : t.block = u.block := Block.ext_x hx hpc
    rw [onBus_next, onBus_next, hblock]
  · exact hsame.elim
  · exact hsame.elim

/-- An instruction without a bus operation, whatever the memory. -/
theorem execOn_of_noRequest {B : Bus} {i : Instr} {s : BusState B} {m : Memory} (h : busRequest i (s.1.withMemory m) = none) :
    execOn B i s = onBus B s.2 (exec i (s.1.withMemory m)) := by
  rw [busRequest_withMemory i s.1 m []] at h
  rw [execOn_none h]
  refine onBus_exec_congr B s.2 fun r hr => ?_
  cases h.symm.trans hr

/-- An instruction with a bus operation: stuck on a refused access, else it completes. -/
theorem execOn_of_request {B : Bus} {i : Instr} {s : BusState B} {m : Memory} {r : BusRequest}
    (h : busRequest i (s.1.withMemory m) = some r) :
    B.perform s.2 r = none ∧ execOn B i s = .refused (.stuck r) ∨
    ∃ v c t, B.perform s.2 r = some (v, c) ∧ exec i (s.1.withMemory (answering r v)) = .next t ∧
      execOn B i s = .next (t.block, c) := by
  rw [busRequest_withMemory i s.1 m []] at h
  cases hb : B.perform s.2 r with
  | none => exact .inl ⟨rfl, execOn_stuck h hb⟩
  | some a =>
    obtain ⟨v, c⟩ := a
    obtain ⟨t, ht⟩ := exec_commits_of_busRequest ((busRequest_withMemory i s.1 (answering r v) []).trans h)
    exact .inr ⟨v, c, t, rfl, ht, by rw [execOn_some h hb, ht, onBus_next]⟩

theorem onBus_eq_fault_iff {B : Bus} {c c' : B.Content} {f : Fault} (r : Result) :
    onBus B c r = .fault (f, c') ↔ r = .fault f ∧ c' = c := by
  cases r <;> simp [eq_comm]

theorem onBus_exec_ne_refused (B : Bus) (c : B.Content) (i : Instr) (s : State) (q : BusStop) :
    onBus B c (exec i s) ≠ .refused q := by
  obtain ⟨t, ht⟩ | ht := (exec_pcRule i s).commits_or_misaligned <;> rw [ht] <;> nofun

/-- Both faults come of the block alone. -/
theorem execOn_eq_fault_iff {B : Bus} {i : Instr} {s : BusState B} (m : Memory) {f : Fault} {c : B.Content} :
    execOn B i s = .fault (f, c) ↔ exec i (s.1.withMemory m) = .fault f ∧ c = s.2 := by
  cases hreq : busRequest i (s.1.withMemory m) with
  | none => rw [execOn_of_noRequest hreq, onBus_eq_fault_iff]
  | some r =>
    obtain ⟨t, ht⟩ := exec_commits_of_busRequest hreq
    obtain ⟨-, h⟩ | ⟨v, d, u, -, -, h⟩ := execOn_of_request hreq <;> simp [h, ht]

theorem executeOn_eq_fault_iff {B : Bus} {w : InstrWord} {s : BusState B} (m : Memory) {f : Fault} {c : B.Content} :
    executeOn B w s = .fault (f, c) ↔ execute w (s.1.withMemory m) = .fault f ∧ c = s.2 := by
  cases hdec : decode w with
  | ok i => rw [executeOn_ok s hdec, execute_ok _ hdec, execOn_eq_fault_iff m]
  | error e =>
    rw [executeOn_error s hdec, (faultsIllegal_of_decode_error hdec _).1]
    simp [eq_comm]

/-- A block without an outcome is stuck on the refused access that its instruction issues. -/
theorem execOn_eq_refused_iff {B : Bus} {i : Instr} {s : BusState B} (m : Memory) {q : BusStop} :
    execOn B i s = .refused q ↔ ∃ r, q = .stuck r ∧ busRequest i (s.1.withMemory m) = some r ∧ B.perform s.2 r = none := by
  cases hreq : busRequest i (s.1.withMemory m) with
  | none =>
    rw [execOn_of_noRequest hreq]
    simp [onBus_exec_ne_refused]
  | some r => obtain ⟨hb, h⟩ | ⟨v, d, u, hb, -, h⟩ := execOn_of_request hreq <;> simp [h, hb, eq_comm]

/-- An instruction that completes on a bus completes so on some memory. -/
theorem exec_of_execOn_next {B : Bus} {i : Instr} {s t : BusState B} (h : execOn B i s = .next t) :
    ∃ m u, exec i (s.1.withMemory m) = .next u ∧ t.1 = u.block := by
  cases hreq : busRequest i (s.1.withMemory []) with
  | none =>
    rw [execOn_of_noRequest hreq] at h
    obtain ⟨u, hu⟩ | hu := (exec_pcRule i (s.1.withMemory [])).commits_or_misaligned
    · rw [hu] at h
      cases h
      exact ⟨[], u, hu, rfl⟩
    · rw [hu] at h
      cases h
  | some r =>
    obtain ⟨-, h'⟩ | ⟨v, c, u, -, hu, h'⟩ := execOn_of_request hreq
    · cases h.symm.trans h'
    · cases h.symm.trans h'
      exact ⟨_, u, hu, rfl⟩

/-! One step on a bus. -/

/-- A fetch that the bus answers, the answer's low word as a number. -/
theorem stepOn_of_fetch {B : Bus} {s : BusState B} {v : Word} {c : B.Content} (h : B.load .word s.1.pc s.2 = some (v, c)) :
    stepOn B s = executeOn B (BitVec.ofNat 32 v.toNat) (s.1, c) := by
  rw [stepOn_some h, BitVec.ofNat_toNat]

theorem stepOn_eq_fault_iff {B : Bus} {s : BusState B} (m : Memory) {f : Fault} {c : B.Content} :
    stepOn B s = .fault (f, c) ↔
      ∃ v, B.load .word s.1.pc s.2 = some (v, c) ∧ execute (BitVec.ofNat 32 v.toNat) (s.1.withMemory m) = .fault f := by
  cases hload : B.load .word s.1.pc s.2 with
  | none => simp [stepOn_stuck hload]
  | some a =>
    obtain ⟨v, d⟩ := a
    rw [stepOn_of_fetch hload, executeOn_eq_fault_iff m]
    simp only [Option.some.injEq, Prod.mk.injEq]
    exact ⟨fun ⟨hf, hc⟩ => ⟨v, ⟨rfl, hc.symm⟩, hf⟩, fun ⟨v', ⟨hv, hc⟩, hf⟩ => ⟨hv ▸ hf, hc.symm⟩⟩

/-- A step without an outcome is stuck: on the fetch, or on the access of the instruction fetched. -/
theorem stepOn_refused {B : Bus} {s : BusState B} (m : Memory) {q : BusStop} (h : stepOn B s = .refused q) :
    q = .stuck (.load .word s.1.pc) ∧ B.load .word s.1.pc s.2 = none ∨
    ∃ v c j r, B.load .word s.1.pc s.2 = some (v, c) ∧ decode (BitVec.ofNat 32 v.toNat) = .ok j ∧ q = .stuck r ∧
      busRequest j (s.1.withMemory m) = some r ∧ B.perform c r = none := by
  cases hload : B.load .word s.1.pc s.2 with
  | none =>
    cases h.symm.trans (stepOn_stuck hload)
    exact .inl ⟨rfl, rfl⟩
  | some a =>
    obtain ⟨v, c⟩ := a
    rw [stepOn_of_fetch hload] at h
    cases hdec : decode (BitVec.ofNat 32 v.toNat) with
    | error e => cases h.symm.trans (executeOn_error _ hdec)
    | ok j =>
      rw [executeOn_ok _ hdec, execOn_eq_refused_iff m] at h
      obtain ⟨r, hq, hreq, hb⟩ := h
      exact .inr ⟨v, c, j, r, rfl, hdec, hq, hreq, hb⟩

theorem exec_of_stepOn_next {B : Bus} {s t : BusState B} (h : stepOn B s = .next t) :
    ∃ i m u, exec i (s.1.withMemory m) = .next u ∧ t.1 = u.block := by
  cases hload : B.load .word s.1.pc s.2 with
  | none => cases h.symm.trans (stepOn_stuck hload)
  | some a =>
    obtain ⟨v, c⟩ := a
    rw [stepOn_of_fetch hload] at h
    cases hdec : decode (BitVec.ofNat 32 v.toNat) with
    | error e => cases h.symm.trans (executeOn_error _ hdec)
    | ok i => exact ⟨i, exec_of_execOn_next (s := (s.1, c)) ((executeOn_ok _ hdec).symm.trans h)⟩

/-- Settles O51: what completes on a bus completes so on some memory, and there the pc stays aligned. -/
theorem pcStaysAlignedOnEveryBus : Obligations.PcStaysAlignedOnEveryBus := by
  intro B s t hs h
  obtain ⟨i, m, u, hu, ht⟩ := exec_of_stepOn_next h
  rw [ht]
  exact exec_keeps_pc_aligned (s := s.1.withMemory m) hs hu

/-- Settles O50: an instruction without an operation is `exec` on any memory, one with an operation completes or is stuck. -/
theorem nothingElseComesOfTheBus : Obligations.NothingElseComesOfTheBus := by
  refine fun B i s m => ⟨fun t hreq ht => ?noOperation, fun f c => execOn_eq_fault_iff m, fun w f c => executeOn_eq_fault_iff m,
    fun w e he => executeOn_error s he, fun f c => stepOn_eq_fault_iff m, fun r => ?stuck, fun r h => ?stuckStep, fun r h => ?refused⟩
  case noOperation => rw [execOn_of_noRequest hreq, ht, onBus_next]
  case stuck => simp [execOn_eq_refused_iff m]
  case stuckStep =>
    obtain ⟨hr, hload⟩ | ⟨v, c, j, q, hload, hdec, hq, hreq, hb⟩ := stepOn_refused m h
    · cases hr
      exact .inl ⟨rfl, hload⟩
    · cases hq
      exact .inr ⟨v, c, j, hload, hdec, hreq, hb⟩
  case refused => obtain ⟨hr, -⟩ | ⟨v, c, j, q, -, -, hr, -⟩ := stepOn_refused m h <;> cases hr

/-! The reference bus. -/

theorem widthBits_le (w : Width) : 8 * widthBytes w ≤ 64 := by cases w <;> decide

/-- A memory made to give the reference bus's answer gives it. -/
theorem busAnswer_answering_busAnswer (m : Memory) (r : BusRequest) : busAnswer (answering r (busAnswer m r)) r = busAnswer m r := by
  cases r with
  | load w a => rw [busAnswer_answering, busAnswer, BitVec.setWidth_setWidth_of_le _ (widthBits_le w), BitVec.setWidth_eq]
  | store w a d => rfl

/-- The bus after the step is the memory after it, and a fault is that of an instruction without an operation. -/
theorem onBus_memoryAfter (i : Instr) (s : State) :
    onBus referenceBus (memoryAfter s.mem (busRequest i s)) (exec i s) = asBusResult s (exec i s) := by
  obtain ⟨t, ht⟩ | ht := (exec_pcRule i s).commits_or_misaligned
  · rw [ht, ← exec_mem ht]
    rfl
  · rw [ht, busRequest_eq_none_of_fault ht]
    rfl

theorem execOn_referenceBus (i : Instr) (s : State) : execOn referenceBus i (s.block, s.mem) = asBusResult s (exec i s) := by
  rw [← onBus_memoryAfter]
  cases hreq : busRequest i s with
  | none => exact execOn_of_noRequest hreq
  | some r =>
    have hreq' : busRequest i (s.block.withMemory []) = some r := (busRequest_withMemory i s.block [] s.mem).trans hreq
    refine (execOn_some (s := (s.block, s.mem)) hreq' (referenceBus_perform s.mem r)).trans
      (onBus_exec_congr referenceBus _ (b := s.block) (n := s.mem) fun q hq => ?_)
    obtain rfl : q = r := Option.some.inj (hq.symm.trans ((busRequest_withMemory i s.block _ s.mem).trans hreq))
    exact busAnswer_answering_busAnswer s.mem q

theorem executeOn_referenceBus (w : InstrWord) (s : State) :
    executeOn referenceBus w (s.block, s.mem) = asBusResult s (execute w s) := by
  cases hdec : decode w with
  | ok i => rw [executeOn_ok _ hdec, execute_ok s hdec, execOn_referenceBus]
  | error e =>
    rw [executeOn_error _ hdec, (faultsIllegal_of_decode_error hdec s).1]
    rfl

theorem stepOn_referenceBus (s : State) : stepOn referenceBus (s.block, s.mem) = asBusResult s (step s) := by
  have hfetch : (busAnswer s.mem (.load .word s.pc)).setWidth 32 = fetchWord s :=
    (BitVec.setWidth_setWidth_of_le (memRead s.mem s.pc 4) (widthBits_le .word)).trans (BitVec.setWidth_eq _)
  rw [stepOn_some (s := ((s.block, s.mem) : BusState referenceBus)) rfl]
  exact hfetch ▸ executeOn_referenceBus (fetchWord s) s

/-- Settles O48: the reference bus answers as the memory does and holds what the memory holds after the step. -/
theorem referenceBusIsTheDefault : Obligations.ReferenceBusIsTheDefault :=
  ⟨executeOn_referenceBus, stepOn_referenceBus⟩

/-! Loads and stores on every bus (R41, R42, R181, R182). -/

/-- The converter reads the low bits of the width only. -/
theorem convertLoad_lowBits (w : Width) (e : LoadExt) (v : Word) :
    convertLoad w e ((v.setWidth (8 * widthBytes w)).setWidth 64) = convertLoad w e v := by
  have hlow : ((v.setWidth (8 * widthBytes w)).setWidth 64).extractLsb' 0 (8 * widthBytes w) = v.extractLsb' 0 (8 * widthBytes w) := by
    rw [BitVec.extractLsb'_setWidth_of_le (by simpa using widthBits_le w), BitVec.extractLsb'_eq_self,
      BitVec.setWidth_eq_extractLsb' (widthBits_le w)]
  cases e <;> simp only [convertLoad, hlow]

theorem convertLoad_sign (w : Width) (v : Word) :
    convertLoad w .sign v = BitVec.ofInt 64 (BitVec.ofNat (8 * widthBytes w) v.toNat).toInt := by
  rw [convertLoad, sext_eq_ofInt, lowBits_eq_ofNat v (widthBits_le w)]

theorem convertLoad_zero (w : Width) (v : Word) :
    convertLoad w .zero v = BitVec.ofNat 64 (v.toNat % 2 ^ (8 * widthBytes w)) :=
  storeData_eq_ofNat w v

/-- A meaning that is a load, on every bus: the answer converted, the bus as the operation left it. -/
theorem loadsFrom_of_loadInto {B : Bus} {i : Instr} {s : BusState B} {w : Width} (e : LoadExt) {rd rs1 : RegIdx} {imm : BitVec 12}
    {conv : Word → Word} (hreq : ∀ u, busRequest i u = some (loadRequest w rs1 imm u))
    (hexec : ∀ u, exec i u = loadInto w e rd rs1 imm u) (hconv : ∀ v, convertLoad w e v = conv v) :
    LoadsFrom B i s rd w (addressOn s rs1 imm) conv := by
  have haddr : ∀ m, loadRequest w rs1 imm (s.1.withMemory m) = .load w (addressOn s rs1 imm) := fun m =>
    congrArg (BusRequest.load w) (effectiveAddress_eq_address (s.1.withMemory m) rs1 imm)
  have hreq' : busRequest i (s.1.withMemory []) = some (.load w (addressOn s rs1 imm)) := by rw [hreq, haddr]
  refine ⟨fun v c hload => ?answered, fun hload => execOn_stuck hreq' hload⟩
  case answered =>
    rw [execOn_some hreq' hload, hexec, loadInto_eq, haddr, Block.withMemory_mem, busAnswer_answering, convertLoad_lowBits, hconv,
      onBus_next]
    exact ⟨_, rfl, State.x_setX_self _ rd _, fun r hr => State.x_setX_other _ _ hr, rfl⟩

/-- A meaning that is a store, on every bus: the truncated data, no register written. -/
theorem storesTo_of_storeFrom {B : Bus} {i : Instr} {s : BusState B} (w : Width) {rs1 rs2 : RegIdx} {imm : BitVec 12} {d : Word}
    (hreq : ∀ u, busRequest i u = some (storeRequest w rs1 rs2 imm u)) (hexec : ∀ u, exec i u = storeFrom w rs1 rs2 imm u)
    (hdata : storeData w (s.1.x rs2) = d) : StoresTo B i s w (addressOn s rs1 imm) d := by
  have hreq' : busRequest i (s.1.withMemory []) = some (.store w (addressOn s rs1 imm) d) := by
    rw [hreq, storeRequest, effectiveAddress_eq_address, ← hdata]
    rfl
  refine ⟨fun c hstore => ?performed, fun hstore => execOn_stuck hreq' ?refused⟩
  case performed =>
    have hb : B.perform s.2 (.store w (addressOn s rs1 imm) d) = some (0, c) := by rw [Bus.perform, hstore]; rfl
    rw [execOn_some hreq' hb, hexec, storeFrom_eq, onBus_next]
    exact ⟨_, rfl, fun _ => rfl, rfl⟩
  case refused => rw [Bus.perform, hstore]; rfl

/-- Settles O49: each of the eleven is the load or the store of its width. -/
theorem everyBusCarriesLoadsAndStores : Obligations.EveryBusCarriesLoadsAndStores := by
  refine fun B s rd rs1 rs2 imm => ⟨?lb, ?lh, ?lw, ?ld, ?lbu, ?lhu, ?lwu, ?sb, ?sh, ?sw, ?sd⟩
  case lb => exact loadsFrom_of_loadInto .sign (fun _ => rfl) (fun _ => rfl) (convertLoad_sign .byte)
  case lh => exact loadsFrom_of_loadInto .sign (fun _ => rfl) (fun _ => rfl) (convertLoad_sign .half)
  case lw => exact loadsFrom_of_loadInto .sign (fun _ => rfl) (fun _ => rfl) (convertLoad_sign .word)
  case ld => exact loadsFrom_of_loadInto .zero (fun _ => rfl) (fun _ => rfl) storeData_double
  case lbu => exact loadsFrom_of_loadInto .zero (fun _ => rfl) (fun _ => rfl) (convertLoad_zero .byte)
  case lhu => exact loadsFrom_of_loadInto .zero (fun _ => rfl) (fun _ => rfl) (convertLoad_zero .half)
  case lwu => exact loadsFrom_of_loadInto .zero (fun _ => rfl) (fun _ => rfl) (convertLoad_zero .word)
  case sb => exact storesTo_of_storeFrom .byte (fun _ => rfl) (fun _ => rfl) (storeData_eq_ofNat .byte _)
  case sh => exact storesTo_of_storeFrom .half (fun _ => rfl) (fun _ => rfl) (storeData_eq_ofNat .half _)
  case sw => exact storesTo_of_storeFrom .word (fun _ => rfl) (fun _ => rfl) (storeData_eq_ofNat .word _)
  case sd => exact storesTo_of_storeFrom .double (fun _ => rfl) (fun _ => rfl) (storeData_double _)

end Sys2Proof.Machine
end

section
/-! SUPPORT and O47, O53. The run loop (70_reset_and_hazards.md R254, R255), for any step: how a run begins, how it can end, and
that it keeps what every step keeps; the runs on the reference bus and on any bus are two cases of it. -/

namespace Sys2Proof.Machine

open Sys2Proof.Claims Sys2Proof.Safety

section
variable {σ φ ρ : Type} {step : σ → Host.Outcome σ φ ρ} {pcOf : σ → Word} {endPc : Word} {s : σ}

/-! How a run begins. -/

theorem runWith_of_end (h : pcOf s = endPc) (n : Nat) : runWith step pcOf endPc n s = .completed s := by
  cases n with
  | zero => rw [runWith_zero, if_pos h]
  | succ n => rw [runWith_succ, if_pos h]

theorem runWith_no_budget (h : pcOf s ≠ endPc) : runWith step pcOf endPc 0 s = .unfinished s := by rw [runWith_zero, if_neg h]

theorem runWith_next {t : σ} (h : pcOf s ≠ endPc) (hstep : step s = .next t) (n : Nat) :
    runWith step pcOf endPc (n + 1) s = runWith step pcOf endPc n t := by
  rw [runWith_succ, if_neg h, hstep]

theorem runWith_fault {f : φ} (h : pcOf s ≠ endPc) (hstep : step s = .fault f) (n : Nat) :
    runWith step pcOf endPc (n + 1) s = .faulted f s := by
  rw [runWith_succ, if_neg h, hstep]

theorem runWith_refused {r : ρ} (h : pcOf s ≠ endPc) (hstep : step s = .refused r) (n : Nat) :
    runWith step pcOf endPc (n + 1) s = .refused r s := by
  rw [runWith_succ, if_neg h, hstep]

/-! How it can end. -/

/-- The end of a run tells where it stands, or what the next step would do. -/
inductive EndsRun (step : σ → Host.Outcome σ φ ρ) (pcOf : σ → Word) (endPc : Word) : RunEnd σ φ ρ → Prop
  | completed {t : σ} (h : pcOf t = endPc) : EndsRun step pcOf endPc (.completed t)
  | unfinished {t : σ} (h : pcOf t ≠ endPc) : EndsRun step pcOf endPc (.unfinished t)
  | faulted {f : φ} {t : σ} (h : step t = .fault f) : EndsRun step pcOf endPc (.faulted f t)
  | refused {r : ρ} {t : σ} (h : step t = .refused r) : EndsRun step pcOf endPc (.refused r t)

theorem runWith_ends (n : Nat) (s : σ) : EndsRun step pcOf endPc (runWith step pcOf endPc n s) := by
  induction n generalizing s with
  | zero =>
    by_cases h : pcOf s = endPc
    · rw [runWith_of_end h]
      exact .completed h
    · rw [runWith_no_budget h]
      exact .unfinished h
  | succ n ih =>
    by_cases h : pcOf s = endPc
    · rw [runWith_of_end h]
      exact .completed h
    · cases hstep : step s with
      | next t =>
        rw [runWith_next h hstep]
        exact ih t
      | fault f =>
        rw [runWith_fault h hstep]
        exact .faulted hstep
      | refused r =>
        rw [runWith_refused h hstep]
        exact .refused hstep

/-- What every step keeps, the run keeps to its end. -/
theorem runWith_keeps {P : σ → Prop} (hkeeps : ∀ s t, P s → step s = .next t → P t) (n : Nat) (hs : P s) :
    P (runWith step pcOf endPc n s).state := by
  induction n generalizing s with
  | zero =>
    by_cases h : pcOf s = endPc
    · rwa [runWith_of_end h]
    · rwa [runWith_no_budget h]
  | succ n ih =>
    by_cases h : pcOf s = endPc
    · rwa [runWith_of_end h]
    · cases hstep : step s with
      | next t =>
        rw [runWith_next h hstep]
        exact ih (hkeeps s t hs hstep)
      | fault f => rwa [runWith_fault h hstep]
      | refused r => rwa [runWith_refused h hstep]

end

/-! Runs on the reference bus. -/

theorem step_keeps_good (s t : State) (hs : GoodState s) (h : step s = .next t) : GoodState t := by
  obtain ⟨hpc, hmem⟩ := hs
  obtain ⟨i, -, hi⟩ := exec_of_execute_next h
  exact ⟨(aligned_iff t.pc).2 (exec_keeps_pc_aligned ((aligned_iff s.pc).1 hpc) hi), step_keeps_memCanonical hmem h⟩

theorem step_ne_refused (s : State) (r : Refusal) : step s ≠ .refused r := by
  intro h
  obtain ⟨t, ht, -⟩ | hf | hf := everyStepHasOneOutcome (fetchWord s) s
  · cases h.symm.trans ht
  · cases h.symm.trans hf
  · cases h.symm.trans hf

theorem runFrom_ends (endPc : Word) (n : Nat) (s : State) : EndsRun step State.pc endPc (runFrom endPc n s) := runWith_ends n s

/-- Settles O47: the run loop's laws for the machine's own step, which keeps the invariant and refuses nothing. -/
theorem runEndsAsTheHostDecides : Obligations.RunEndsAsTheHostDecides := by
  refine ⟨fun endPc n s hs => runWith_keeps step_keeps_good n hs, fun endPc n s t h => ?completed, fun endPc n s t h => ?unfinished,
    fun endPc n s r t h => ?refused, fun n s => runWith_of_end rfl n, fun endPc n s => ?safeOrFaulted, fun endPc n s t f h => ?faulted,
    fun endPc n s t h hstep => runWith_next h hstep n, fun endPc n s f h hstep => runWith_fault h hstep n,
    fun endPc s h => runWith_no_budget h⟩
  case safeOrFaulted =>
    have hends := runFrom_ends endPc n s
    rw [SafeRun]
    generalize runFrom endPc n s = e at hends ⊢
    cases hends with
    | completed => exact .inl (.inl ⟨_, rfl⟩)
    | unfinished => exact .inl (.inr ⟨_, rfl⟩)
    | faulted => exact .inr ⟨_, _, rfl⟩
    | refused hstep => exact absurd hstep (step_ne_refused _ _)
  all_goals have hends := h ▸ runFrom_ends endPc n s
  case completed => cases hends with | completed hpc => exact hpc
  case unfinished => cases hends with | unfinished hpc => exact hpc
  case faulted => cases hends with | faulted hstep => exact hstep
  case refused => cases hends with | refused hstep => exact step_ne_refused _ _ hstep

/-! Runs on any bus. -/

theorem runOn_ends (B : Bus) (endPc : Word) (n : Nat) (s : BusState B) :
    EndsRun (stepOn B) (fun t => t.1.pc) endPc (runOn B endPc n s) := runWith_ends n s

/-- Step by step, the run of the block on the reference bus is the machine's. -/
theorem runOn_referenceBus (endPc : Word) (n : Nat) (s : State) :
    runOn referenceBus endPc n (s.block, s.mem) = asBusRun (runFrom endPc n s) := by
  induction n generalizing s with
  | zero =>
    by_cases hpc : s.pc = endPc
    · exact (runWith_of_end (s := (s.block, s.mem)) hpc 0).trans (congrArg asBusRun (runWith_of_end hpc 0).symm)
    · exact (runWith_no_budget (s := (s.block, s.mem)) hpc).trans (congrArg asBusRun (runWith_no_budget hpc).symm)
  | succ n ih =>
    by_cases hpc : s.pc = endPc
    · exact (runWith_of_end (s := (s.block, s.mem)) hpc _).trans (congrArg asBusRun (runWith_of_end hpc _).symm)
    · have hbus := stepOn_referenceBus s
      cases hstep : step s with
      | next t =>
        rw [hstep] at hbus
        exact (runWith_next (s := (s.block, s.mem)) hpc hbus n).trans
          ((ih t).trans (congrArg asBusRun (runWith_next hpc hstep n).symm))
      | fault f =>
        rw [hstep] at hbus
        exact (runWith_fault (s := (s.block, s.mem)) hpc hbus n).trans (congrArg asBusRun (runWith_fault hpc hstep n).symm)
      | refused r => exact absurd hstep (step_ne_refused s r)

/-- Settles O53: the run loop's laws for the step on a bus; on the reference bus each step is the machine's own. -/
theorem runsOnEveryBusTakeSteps : Obligations.RunsOnEveryBusTakeSteps := by
  refine ⟨fun B endPc n s => ⟨fun h => runWith_of_end (s := s) h n, fun t h hstep => runWith_next (s := s) h hstep n,
    fun f h hstep => runWith_fault (s := s) h hstep n, fun r h hstep => runWith_refused (s := s) h hstep n, fun h => runWith_no_budget (s := s) h,
    fun t h => ?completed, fun t h => ?unfinished, fun f t h => ?faulted, fun r t h => ?refused,
    runWith_keeps (pcStaysAlignedOnEveryBus B) n⟩, runOn_referenceBus⟩
  all_goals have hends := h ▸ runOn_ends B endPc n s
  case completed => cases hends with | completed hpc => exact hpc
  case unfinished => cases hends with | unfinished hpc => exact hpc
  case faulted => cases hends with | faulted hstep => exact hstep
  case refused => cases hends with | refused hstep => exact hstep

end Sys2Proof.Machine
end
